-- ==== Sys2Proof/Word.lean ====
section
/-! DEFINITION. The word types of QDPID: rules R5, R7 and R11. -/
namespace Sys2Proof

/-- A PID data register and a host bus word: W = 32 bits (R5). -/
abbrev Word := BitVec 32

/-- The tick accumulator: ACC_WIDTH = 8 bits (R7). -/
abbrev Acc := BitVec 8

/-- The index 0..3 of a phase in the Gray cycle (R23). -/
abbrev Phase := BitVec 2

/-- A byte offset A[7:0] in the register window (R10, R71). -/
abbrev Offset := BitVec 8

/-- The transaction code TC[8:0] = {W, A[7:0]} (R71). -/
abbrev TransCode := BitVec 9

end Sys2Proof
end

