-- ==== Sys2Proof/Syntax.lean ====
section
/-! DEFINITION. The operations of QDPID (R15): their encodings as they reach the block (formats EDGE and BUS, R70 and
R71), the decoded operations, one constructor per row of spec/opcode_table.json (R74), and the events of the RESET
agent (R20, R190, R191). -/
namespace Sys2Proof

/-- The PID contexts: L = 0 is the velocity loop, L = 1 the position loop (R9). -/
inductive Loop where
  | velocity
  | position
  deriving DecidableEq, Repr

/-- The context bit TC[6] (R72). -/
def Loop.bit : Loop → BitVec 1
  | .velocity => 0#1
  | .position => 1#1

/-- One host bus transaction, format BUS (R71). The constructor is the field W, and WDATA is present only when W = 1.
Offset and size are the raw fields: a transaction need not be admitted. -/
inductive BusTxn where
  /-- `MemRead`: W = 0. -/
  | read (a : Offset) (size : BitVec 2)
  /-- `MemWrite`: W = 1. -/
  | write (a : Offset) (size : BitVec 2) (wdata : Word)
  deriving DecidableEq, Repr

/-- The field A[7:0] of a transaction (R71). -/
def BusTxn.offset : BusTxn → Offset
  | .read a _ => a
  | .write a _ _ => a

/-- The field SIZE of a transaction (R71). -/
def BusTxn.size : BusTxn → BitVec 2
  | .read _ z => z
  | .write _ z _ => z

/-- The field W of a transaction (R71). -/
def BusTxn.isWrite : BusTxn → Bool
  | .read _ _ => false
  | .write _ _ _ => true

/-- An operation as it reaches the block, encoded (R15). -/
inductive Operation where
  /-- One EDGE event: bit 1 is `a` (line qa), bit 0 is `b` (line qb) (R70). -/
  | edge (ab : BitVec 2)
  /-- One host bus transaction (R71). -/
  | bus (t : BusTxn)
  deriving DecidableEq, Repr

/-- What the RESET agent does with the input `rst` (R190, R191). -/
inductive ResetEvent where
  /-- `rst` goes high (R190). -/
  | assertRst
  /-- `rst` goes low, with the pins qa = `a` and qb = `b` sampled at that moment (R191, R192). -/
  | releaseRst (a b : Bool)
  deriving DecidableEq, Repr

/-- The three agents that act on QDPID (R20). -/
inductive Agent where
  | edge
  | host
  | reset
  deriving DecidableEq, Repr

/-- One entry of the total order of R56. -/
inductive Event where
  | op (o : Operation)
  | reset (e : ResetEvent)
  deriving DecidableEq, Repr

/-- The decoded operations: one constructor per row of the opcode table (R74). `l` is the context bit, `wdata` the
32-bit write data (R73). -/
inductive Instr where
  | edge (a b : Bool)
  | rdQdDrain
  | rdQdStatus
  | wrQdStatus (wdata : Word)
  | rdTarget (l : Loop)
  | wrTarget (l : Loop) (wdata : Word)
  | rdMeas (l : Loop)
  | wrMeas (l : Loop) (wdata : Word)
  | rdKpSh (l : Loop)
  | wrKpSh (l : Loop) (wdata : Word)
  | rdKiSh (l : Loop)
  | wrKiSh (l : Loop) (wdata : Word)
  | rdKdSh (l : Loop)
  | wrKdSh (l : Loop) (wdata : Word)
  | wrCfgCommit (l : Loop) (wdata : Word)
  | wrStep (l : Loop) (wdata : Word)
  | rdKp (l : Loop)
  | rdKi (l : Loop)
  | rdKd (l : Loop)
  | rdInteg (l : Loop)
  | rdPrevErr (l : Loop)
  | rdPTerm (l : Loop)
  | rdITerm (l : Loop)
  | rdDTerm (l : Loop)
  | rdOutput (l : Loop)
  deriving DecidableEq, Repr

/-- The context an operation acts on (R72): none for the operations of the decoder page and for EDGE. -/
def Instr.loop? : Instr → Option Loop
  | .edge _ _ => none
  | .rdQdDrain => none
  | .rdQdStatus => none
  | .wrQdStatus _ => none
  | .rdTarget l => some l
  | .wrTarget l _ => some l
  | .rdMeas l => some l
  | .wrMeas l _ => some l
  | .rdKpSh l => some l
  | .wrKpSh l _ => some l
  | .rdKiSh l => some l
  | .wrKiSh l _ => some l
  | .rdKdSh l => some l
  | .wrKdSh l _ => some l
  | .wrCfgCommit l _ => some l
  | .wrStep l _ => some l
  | .rdKp l => some l
  | .rdKi l => some l
  | .rdKd l => some l
  | .rdInteg l => some l
  | .rdPrevErr l => some l
  | .rdPTerm l => some l
  | .rdITerm l => some l
  | .rdDTerm l => some l
  | .rdOutput l => some l

end Sys2Proof
end

