-- ==== Sys2Proof/WellFormed.lean ====
section
/-! DEFINITION. Which transactions have a shape the register window admits at all (R51, R52; steps 1 and 2 of R75).
A decoded operation (Instr) needs no check of its own: its operands are two pin bits, a context out of two and a
32-bit word, every value of which R70, R72 and R73 admit. -/
namespace Sys2Proof

/-- The access is 32 bits wide: SIZE = 0b10 (R51, R71). -/
def BusTxn.sized (t : BusTxn) : Bool := t.size == 0b10#2

/-- The offset is a multiple of four: A[1:0] = 0b00 (R52). -/
def BusTxn.aligned (t : BusTxn) : Bool := t.offset.extractLsb' 0 2 == 0b00#2

/-- Both checks: a whole, aligned word (R51, R52). -/
def BusTxn.wellFormed (t : BusTxn) : Bool := t.sized && t.aligned

/-- An EDGE of any sample is well formed ("no EDGE encoding is illegal", R70); a transaction as above. -/
def Operation.wellFormed : Operation → Bool
  | .edge _ => true
  | .bus t => t.wellFormed

end Sys2Proof
end

