-- ==== Sys2Proof/Decode.lean ====
section
/-! DEFINITION. Decoding, total on every operation and rejecting by name (R70 to R76), the encoder, and the operation
that a word of spec/opcode_table.json stands for. -/
namespace Sys2Proof

/-- Why a transaction is illegal (R75, R172). The block does not tell the reasons apart (R174); the names are the
decoder's. -/
inductive DecodeError where
  /-- SIZE is not 0b10 (R51). -/
  | badSize
  /-- A[1:0] is not 0b00 (R52). -/
  | misaligned
  /-- A decoder offset 0x08 to 0x7C (R76). -/
  | reservedOffset
  /-- A write to QD_DRAIN or to an index 7 to 15 (R75). -/
  | writeToReadOnly
  /-- A read of CFG_COMMIT or STEP (R75). -/
  | readOfTrigger
  deriving DecidableEq, Repr

/-- The transaction code TC = {W, A[7:0]} (R71). -/
def BusTxn.tc (t : BusTxn) : TransCode := BitVec.ofBool t.isWrite ++ t.offset

/-- WDATA where it is present (R71); a read's row takes no operand from it. -/
def BusTxn.wdataOr0 : BusTxn → Word
  | .read _ _ => 0#32
  | .write _ _ v => v

/-- One BUS row of the opcode map (R74): it matches TC when `tc & mask = pattern` (R75), and `build` assembles the
operation from the context bit and WDATA (R72, R73). -/
structure Row where
  pattern : TransCode
  mask : TransCode
  build : Loop → Word → Instr

/-- A row of the decoder page: mask 0x1FF (R75). -/
def decoderRow (pattern : TransCode) (build : Word → Instr) : Row :=
  { pattern, mask := 0x1FF#9, build := fun _ v => build v }

/-- A PID row that reads: mask 0x1BF (R75). -/
def pidRead (pattern : TransCode) (build : Loop → Instr) : Row :=
  { pattern, mask := 0x1BF#9, build := fun l _ => build l }

/-- A PID row that writes: mask 0x1BF (R75). -/
def pidWrite (pattern : TransCode) (build : Loop → Word → Instr) : Row :=
  { pattern, mask := 0x1BF#9, build }

/-- The BUS rows of the opcode map, in the table's order (R74). -/
def rows : List Row :=
  [ decoderRow 0x000#9 (fun _ => .rdQdDrain)
  , decoderRow 0x004#9 (fun _ => .rdQdStatus)
  , decoderRow 0x104#9 .wrQdStatus
  , pidRead 0x080#9 .rdTarget
  , pidWrite 0x180#9 .wrTarget
  , pidRead 0x084#9 .rdMeas
  , pidWrite 0x184#9 .wrMeas
  , pidRead 0x088#9 .rdKpSh
  , pidWrite 0x188#9 .wrKpSh
  , pidRead 0x08C#9 .rdKiSh
  , pidWrite 0x18C#9 .wrKiSh
  , pidRead 0x090#9 .rdKdSh
  , pidWrite 0x190#9 .wrKdSh
  , pidWrite 0x194#9 .wrCfgCommit
  , pidWrite 0x198#9 .wrStep
  , pidRead 0x09C#9 .rdKp
  , pidRead 0x0A0#9 .rdKi
  , pidRead 0x0A4#9 .rdKd
  , pidRead 0x0A8#9 .rdInteg
  , pidRead 0x0AC#9 .rdPrevErr
  , pidRead 0x0B0#9 .rdPTerm
  , pidRead 0x0B4#9 .rdITerm
  , pidRead 0x0B8#9 .rdDTerm
  , pidRead 0x0BC#9 .rdOutput ]

/-- `TC & mask = match` (R75). -/
def Row.hits (r : Row) (tc : TransCode) : Bool := tc &&& r.mask == r.pattern

/-- The context of the context bit TC[6] (R72, R9). -/
def loopOf (tc : TransCode) : Loop := if tc.getLsbD 6 then .position else .velocity

/-- Why a whole, aligned transaction that no row matches is illegal (R75). -/
def unmapped (t : BusTxn) : DecodeError :=
  if t.offset.getLsbD 7 = false ∧ t.offset.extractLsb' 2 5 ≠ 0#5 then .reservedOffset
  else if t.isWrite then .writeToReadOnly else .readOfTrigger

/-- The decode procedure of R75, its steps in its order. -/
def decodeBus (t : BusTxn) : Except DecodeError Instr :=
  match t.sized, t.aligned with
  | false, _ => .error .badSize
  | true, false => .error .misaligned
  | true, true =>
    match rows.find? (·.hits t.tc) with
    | some r => .ok (r.build (loopOf t.tc) t.wdataOr0)
    | none => .error (unmapped t)

/-- An EDGE carries its two pin bits, `a` in bit 1 and `b` in bit 0; every value is legal (R70). -/
def decodeEdge (ab : BitVec 2) : Instr := .edge (ab.getLsbD 1) (ab.getLsbD 0)

/-- Decoding, total: an EDGE by R70, a transaction by R75. -/
def decode : Operation → Except DecodeError Instr
  | .edge ab => .ok (decodeEdge ab)
  | .bus t => decodeBus t

/-- The offset of index `idx` of context `l`: A = {1, L, idx[3:0], 0, 0} (R72), which is 0x80 + 0x40*L + 4*idx (R110). -/
def pidOffset (l : Loop) (idx : BitVec 4) : Offset := 1#1 ++ l.bit ++ idx ++ 0#2

/-- The 32-bit read of a PID register (R72). -/
def rdPid (l : Loop) (idx : BitVec 4) : Operation := .bus (.read (pidOffset l idx) 0b10#2)

/-- The 32-bit write of a PID register (R72). -/
def wrPid (l : Loop) (idx : BitVec 4) (wdata : Word) : Operation := .bus (.write (pidOffset l idx) 0b10#2 wdata)

/-- The encoder: the operation that stands for `i`, from the formats of R70 to R72 and the register indices of R29. -/
def encode : Instr → Operation
  | .edge a b => .edge (BitVec.ofBool a ++ BitVec.ofBool b)
  | .rdQdDrain => .bus (.read 0x00#8 0b10#2)
  | .rdQdStatus => .bus (.read 0x04#8 0b10#2)
  | .wrQdStatus v => .bus (.write 0x04#8 0b10#2 v)
  | .rdTarget l => rdPid l 0#4
  | .wrTarget l v => wrPid l 0#4 v
  | .rdMeas l => rdPid l 1#4
  | .wrMeas l v => wrPid l 1#4 v
  | .rdKpSh l => rdPid l 2#4
  | .wrKpSh l v => wrPid l 2#4 v
  | .rdKiSh l => rdPid l 3#4
  | .wrKiSh l v => wrPid l 3#4 v
  | .rdKdSh l => rdPid l 4#4
  | .wrKdSh l v => wrPid l 4#4 v
  | .wrCfgCommit l v => wrPid l 5#4 v
  | .wrStep l v => wrPid l 6#4 v
  | .rdKp l => rdPid l 7#4
  | .rdKi l => rdPid l 8#4
  | .rdKd l => rdPid l 9#4
  | .rdInteg l => rdPid l 10#4
  | .rdPrevErr l => rdPid l 11#4
  | .rdPTerm l => rdPid l 12#4
  | .rdITerm l => rdPid l 13#4
  | .rdDTerm l => rdPid l 14#4
  | .rdOutput l => rdPid l 15#4

/-- The 32-bit transaction of a transaction code: W is bit 8, A is bits 7:0, SIZE is the 0b10 that every BUS row
needs (R74), and WDATA is `wdata` (R71). -/
def BusTxn.ofTc (tc : TransCode) (wdata : Word) : BusTxn :=
  if tc.getLsbD 8 then .write (tc.extractLsb' 0 8) 0b10#2 wdata else .read (tc.extractLsb' 0 8) 0b10#2

/-- DESIGN CHOICE (log entry 4): the operation that a word of spec/opcode_table.json stands for. A row of at most one byte is
format EDGE (R70, its two bits `ab`); a longer row is format BUS, its nine bits the code TC (R71), WDATA zero. A word
with a bit outside its format stands for no operation. -/
def Operation.ofTableWord (nbits w : Nat) : Option Operation :=
  if nbits ≤ 8 then
    if w < 4 then some (.edge (BitVec.ofNat 2 w)) else none
  else
    if w < 512 then some (.bus (BusTxn.ofTc (BitVec.ofNat 9 w) 0#32)) else none

/-- What the decoder reads from a word of spec/opcode_table.json. -/
def decodeTableWord (nbits w : Nat) : Option Instr :=
  match Operation.ofTableWord nbits w with
  | some op =>
    match decode op with
    | .ok i => some i
    | .error _ => none
  | none => none

end Sys2Proof
end

