-- ==== Sys2Proof/Config.lean ====
section
/-! DEFINITION. What is fixed for a given block: the parameters of rules R6 and R8, and the one value the spec leaves
free, the pins at the reset release that State.reset stands for (R192). The widths of R5 and R7 are in Word. -/
namespace Sys2Proof.Config

/-- F (FRAC_BITS), the fraction bits of every PID data value (R6). -/
def fracBits : Nat := 16

/-- INTEG_LIMIT, in value units (R8). DOC's literal is unaudited, so claims name this parameter. -/
def integLimit : Int := 1000

/-- ILIM = INTEG_LIMIT * 2^F, the raw integral limit (R8, R143). -/
def ilim : Int := integLimit * 2 ^ fracBits

/-- FREE VALUE: line qa when reset was released, for the state State.reset (R36, R192: any value). -/
opaque qaAtRelease : Bool

/-- FREE VALUE: line qb when reset was released, for the state State.reset (R36, R192: any value). -/
opaque qbAtRelease : Bool

end Sys2Proof.Config
end

