-- ==== Sys2Proof/Machine/Fixed.lean ====
section
/-! DEFINITION. The width functions of R12 and the Q16.16 arithmetic of R140 to R143. Arithmetic is on mathematical
integers and is narrowed only by an explicit function (R11); `sval` is `BitVec.toInt`, `uval` is `BitVec.toNat`. -/
namespace Sys2Proof.Machine

/-- `clamp(v, lo, hi) = min(max(v, lo), hi)` (R12). -/
def clamp (v lo hi : Int) : Int := min (max v lo) hi

/-- The least value of an N-bit two's-complement number. -/
def sMin (n : Nat) : Int := -(2 ^ (n - 1))

/-- The greatest value of an N-bit two's-complement number. -/
def sMax (n : Nat) : Int := 2 ^ (n - 1) - 1

/-- `wrap_N(v)` (R12). -/
def wrap (n : Nat) (v : Int) : BitVec n := BitVec.ofInt n v

/-- `sat_N(v)` (R12). -/
def sat (n : Nat) (v : Int) : BitVec n := BitVec.ofInt n (clamp v (sMin n) (sMax n))

/-- `floor_div(v, 2^k)`: the greatest integer not above v / 2^k (R12). -/
def floorDiv (v : Int) (k : Nat) : Int := Int.fdiv v (2 ^ k)

/-- `sub_sat(x, y)`, the saturating difference (R141). -/
def subSat (x y : Word) : Word := sat 32 (x.toInt - y.toInt)

/-- `mul_q(k, x)`, the fixed-point product, rounded toward minus infinity and saturated (R142). -/
def mulQ (k x : Word) : Word := sat 32 (floorDiv (k.toInt * x.toInt) Config.fracBits)

/-- `integ_next(I, e)`, the clamped integral (R143). -/
def integNext (i e : Word) : Int := clamp (i.toInt + e.toInt) (-Config.ilim) Config.ilim

end Sys2Proof.Machine
end

