-- ==== Sys2Proof/Machine/Phase.lean ====
section
/-! DEFINITION. The decoder's phase and delta functions: rules R90 and R91. -/
namespace Sys2Proof.Machine

/-- `phase_of(a, b) = {a, a XOR b}`: the index of the sample `ab` in the cycle 00, 01, 11, 10 (R90). -/
def phaseOf (a b : Bool) : Phase := BitVec.ofBool a ++ BitVec.ofBool (a ^^ b)

/-- The signed tick delta of a phase transition (R91). -/
def delta (old new : Phase) : Int :=
  if old = 3#2 ∧ new = 0#2 then 1
  else if old = 0#2 ∧ new = 3#2 then -1
  else (new.toNat : Int) - (old.toNat : Int)

end Sys2Proof.Machine
end

