-- ==== Sys2Proof/Machine/State.lean ====
section
/-! DEFINITION. The state of QDPID (R23 to R36), with the inputs that drive it as the model's own fields (R20, R22),
the reset state, and the two reason types of a stop. -/
namespace Sys2Proof.Machine

/-- The registers of one PID context, Q16.16 words (R29). The triggers CFG_COMMIT and STEP hold nothing (R35). -/
structure Context where
  target : Word
  meas : Word
  kpSh : Word
  kiSh : Word
  kdSh : Word
  kp : Word
  ki : Word
  kd : Word
  integ : Word
  prevErr : Word
  pTerm : Word
  iTerm : Word
  dTerm : Word
  output : Word
  deriving DecidableEq, Repr

/-- Every register of a context at its reset value 0x00000000 (R36). -/
def Context.zero : Context :=
  { target := 0, meas := 0, kpSh := 0, kiSh := 0, kdSh := 0, kp := 0, ki := 0, kd := 0
    integ := 0, prevErr := 0, pTerm := 0, iTerm := 0, dTerm := 0, output := 0 }

/-- The state. The fields `phase` to `pos` are the whole architectural state (R35). The others are the model's own: the
level of the input `rst` (R22), the data the bus returned, and what the agents of R20 still bring to the block, in an
order that `sched` gives (R56, R57). They are the environment's, not a queue of the block (R34). -/
structure State where
  /-- PHASE, the index of the last sampled phase (R23). -/
  phase : Phase
  /-- ACC, the tick accumulator (R24). -/
  acc : Acc
  /-- ACC_OVF, sticky (R25). -/
  accOvf : Bool
  /-- BUS_ERR, sticky (R26). -/
  busErr : Bool
  /-- CTX[0], the velocity loop (R28, R29). -/
  vel : Context
  /-- CTX[1], the position loop (R28, R29). -/
  pos : Context
  /-- The level of the reset input, active high (R190). -/
  rst : Bool
  /-- RDATA of the latest host read (R71); none while no read has been made. -/
  rdata : Option Word
  /-- The samples of the EDGE operations still to come, in the order of their edge events (R56 b). -/
  edges : List (BitVec 2)
  /-- The host's transactions still to come, in its issue order (R56 a). -/
  host : List BusTxn
  /-- What the RESET agent still does, in order (R190, R191). -/
  resets : List ResetEvent
  /-- Which agent acts next, and after it: one interleaving of R57. -/
  sched : List Agent
  deriving DecidableEq, Repr

/-- The block right after reset is released (R36, R191), with nothing brought to it yet. PHASE is the phase of the
pins at the release, which R192 leaves open: a free value (log entry 1). -/
def State.reset : State :=
  { phase := phaseOf Config.qaAtRelease Config.qbAtRelease
    acc := 0, accOvf := false, busErr := false
    vel := Context.zero, pos := Context.zero
    rst := false, rdata := none, edges := [], host := [], resets := [], sched := [] }

/-- No fault exists: "No operation of QDPID traps, halts, stalls for good or transfers control" (R170). An illegal
transaction is no stop: it completes and sets BUS_ERR (R172). -/
inductive Fault where
  deriving DecidableEq, Repr

/-- Why an operation has no meaning in this model. -/
inductive Refusal where
  /-- An operation not modelled yet, by its mnemonic; only an arm of exec could raise it, and none does. Safe. -/
  | notModelled (mnemonic : String)
  deriving DecidableEq, Repr

end Sys2Proof.Machine
end

