-- ==== Sys2Proof/Machine/Ops.lean ====
section
/-! DEFINITION. The named operations over the registers: access to a context (R13), the data a read returns (R71), raising
a condition (R14, the block's whole "exception"; there is no trap and no return, R176), the illegal transaction (R172), and the
reset input (R190, R191). -/
namespace Sys2Proof.Machine

/-- `CTX[L]` (R13). -/
def State.ctx (s : State) : Loop → Context
  | .velocity => s.vel
  | .position => s.pos

/-- `CTX[L] <- c` (R13). -/
def State.withCtx (s : State) (l : Loop) (c : Context) : State :=
  match l with
  | .velocity => { s with vel := c }
  | .position => { s with pos := c }

/-- `RDATA <- v`: the host read returns `v` (R71). -/
def State.respond (s : State) (v : Word) : State := { s with rdata := some v }

/-- The conditions of R171 and R172. -/
inductive Condition where
  | accOverflow
  | busError
  deriving DecidableEq, Repr

/-- `raise <Condition>` sets the condition's sticky flag and does nothing else (R14, R171, R172). -/
def State.raise (s : State) : Condition → State
  | .accOverflow => { s with accOvf := true }
  | .busError => { s with busErr := true }

/-- An illegal transaction: a read returns 0, and BusError is raised (R172). -/
def State.illegal (s : State) (t : BusTxn) : State :=
  match t with
  | .read _ _ => (s.respond 0#32).raise .busError
  | .write _ _ _ => s.raise .busError

/-- While `rst` is asserted no operation is performed: a write is ignored, a read returns 0, an edge is not serviced and
no flag is set (R190). -/
def State.heldInReset (s : State) (op : Operation) : State :=
  match op with
  | .edge _ => s
  | .bus (.read _ _) => s.respond 0#32
  | .bus (.write _ _ _) => s

/-- `RESET(a, b)`, the release of reset: every register at its reset value, PHASE from the pins (R191, R36). -/
def State.release (s : State) (a b : Bool) : State :=
  { s with phase := phaseOf a b, acc := 0, accOvf := false, busErr := false
           vel := Context.zero, pos := Context.zero, rst := false }

/-- The reset input changes (R190, R191). A release that no assertion precedes stands for both, as in `RESET ab` (R78). -/
def State.applyReset (s : State) : ResetEvent → State
  | .assertRst => { s with rst := true }
  | .releaseRst a b => s.release a b

end Sys2Proof.Machine
end

