-- ==== Sys2Proof/Machine/Agents.lean ====
section
/-! DEFINITION. Which event the agents bring to the block next (R20, R56, R57): the block has no program counter and
fetches nothing (R21), so this stands where a fetch would. -/
namespace Sys2Proof.Machine

/-- The next event of the total order, and the state without it. `sched` names the agent, the agent's own list gives
the event, in that agent's order (R56). With no agent scheduled nothing happens; a slot whose agent brings nothing
passes (log entry 3). -/
def State.nextEvent (s : State) : Option Event × State :=
  match s.sched with
  | [] => (none, s)
  | .edge :: rest =>
    match s.edges with
    | [] => (none, { s with sched := rest })
    | ab :: more => (some (.op (.edge ab)), { s with sched := rest, edges := more })
  | .host :: rest =>
    match s.host with
    | [] => (none, { s with sched := rest })
    | t :: more => (some (.op (.bus t)), { s with sched := rest, host := more })
  | .reset :: rest =>
    match s.resets with
    | [] => (none, { s with sched := rest })
    | e :: more => (some (.reset e), { s with sched := rest, resets := more })

/-- `s` with `op` as the next event: its agent's list and the schedule gain it in front, and reset is not asserted. -/
def State.present (s : State) (op : Operation) : State :=
  match op with
  | .edge ab => { s with rst := false, edges := ab :: s.edges, sched := .edge :: s.sched }
  | .bus t => { s with rst := false, host := t :: s.host, sched := .host :: s.sched }

/-- `s` with one more event to come, after all that already are: its agent's list and the schedule gain it at the end. -/
def State.bring (s : State) (ev : Event) : State :=
  match ev with
  | .op (.edge ab) => { s with edges := s.edges ++ [ab], sched := s.sched ++ [.edge] }
  | .op (.bus t) => { s with host := s.host ++ [t], sched := s.sched ++ [.host] }
  | .reset e => { s with resets := s.resets ++ [e], sched := s.sched ++ [.reset] }

/-- `s` with a whole sequence of events to come, in that order: how a program is brought to the block (log entry 2). -/
def State.load (s : State) (evs : List Event) : State := evs.foldl State.bring s

end Sys2Proof.Machine
end

