-- ==== Sys2Proof/Machine/Flags.lean ====
section
/-! DEFINITION. When the two sticky flags of QD_STATUS are set and cleared: rules R92, R95 and R171. -/
namespace Sys2Proof.Machine

/-- The sum leaves the signed ACC_WIDTH-bit range (R92, R171). -/
def accOverflows (sum : Int) : Bool := decide (sum < sMin 8 ∨ sum > sMax 8)

/-- A write-1-to-clear flag after a write that carries `bit` at its place (R27, R95). -/
def afterW1C (flag bit : Bool) : Bool := if bit then false else flag

end Sys2Proof.Machine
end

