-- ==== Sys2Proof/Machine/Operands.lean ====
section
/-! DEFINITION. The operand and read-data forms of R73 and the byte lanes of R53. A write's operand is its whole WDATA and a
context register reads as its pattern, so those two forms are plain words. -/
namespace Sys2Proof.Machine

/-- Read data of QD_DRAIN: `sext_32(ACC)` (R73, R93). -/
def State.drainData (s : State) : Word := s.acc.signExtend 32

/-- Read data of QD_STATUS: `zext_32({BUS_ERR, ACC_OVF, PHASE})` (R27, R73, R94). -/
def State.statusData (s : State) : Word :=
  (BitVec.ofBool s.busErr ++ BitVec.ofBool s.accOvf ++ s.phase).zeroExtend 32

/-- Byte lane k of a register word: bits [8k+7:8k], the least significant byte at the lowest address (R53). -/
def byteLane (w : Word) (k : Fin 4) : BitVec 8 := w.extractLsb' (8 * k.val) 8

/-- The register word of four byte lanes, lane 0 first (R53). -/
def ofByteLanes (b0 b1 b2 b3 : BitVec 8) : Word := b3 ++ b2 ++ b1 ++ b0

end Sys2Proof.Machine
end

