-- ==== Sys2Proof/Machine/Decoder.lean ====
section
/-! DEFINITION. The quadrature decoder's operations: rules R92 to R95. -/
namespace Sys2Proof.Machine

/-- The sum an EDGE with new phase `new` forms, a mathematical integer (R92). -/
def State.edgeSum (s : State) (new : Phase) : Int := s.acc.toInt + delta s.phase new

/-- AccOverflow is raised exactly when the sum leaves the range of ACC; the flag is never cleared here (R92, R171). That
this is `raise AccOverflow` under that condition is Laws' State.noteOverflow_eq_raise. -/
def State.noteOverflow (s : State) (sum : Int) : State := { s with accOvf := s.accOvf || accOverflows sum }

/-- EDGE (R92). -/
def execEdge (a b : Bool) (s : State) : Host.Outcome State Fault Refusal :=
  .next { s.noteOverflow (s.edgeSum (phaseOf a b)) with
    acc := wrap 8 (s.edgeSum (phaseOf a b)), phase := phaseOf a b }

/-- RD QD_DRAIN: read and zero, one step (R93). -/
def execRdQdDrain (s : State) : Host.Outcome State Fault Refusal :=
  .next { s.respond s.drainData with acc := 0 }

/-- RD QD_STATUS (R94). -/
def execRdQdStatus (s : State) : Host.Outcome State Fault Refusal :=
  .next (s.respond s.statusData)

/-- WR QD_STATUS: write 1 to clear; only WDATA[3:2] has meaning (R95). -/
def execWrQdStatus (wdata : Word) (s : State) : Host.Outcome State Fault Refusal :=
  .next { s with accOvf := afterW1C s.accOvf (wdata.getLsbD 2), busErr := afterW1C s.busErr (wdata.getLsbD 3) }

end Sys2Proof.Machine
end

