-- ==== Sys2Proof/Machine/PidAccess.lean ====
section
/-! DEFINITION. Register access and configuration commit of a PID context: rules R110 to R124. -/
namespace Sys2Proof.Machine

/-- RD TARGET (R111). -/
def execRdTarget (l : Loop) (s : State) : Host.Outcome State Fault Refusal := .next (s.respond (s.ctx l).target)

/-- WR TARGET (R112). -/
def execWrTarget (l : Loop) (wdata : Word) (s : State) : Host.Outcome State Fault Refusal :=
  .next (s.withCtx l { s.ctx l with target := wdata })

/-- RD MEAS (R113). -/
def execRdMeas (l : Loop) (s : State) : Host.Outcome State Fault Refusal := .next (s.respond (s.ctx l).meas)

/-- WR MEAS (R114). -/
def execWrMeas (l : Loop) (wdata : Word) (s : State) : Host.Outcome State Fault Refusal :=
  .next (s.withCtx l { s.ctx l with meas := wdata })

/-- RD KP_SH (R115). -/
def execRdKpSh (l : Loop) (s : State) : Host.Outcome State Fault Refusal := .next (s.respond (s.ctx l).kpSh)

/-- WR KP_SH (R116). -/
def execWrKpSh (l : Loop) (wdata : Word) (s : State) : Host.Outcome State Fault Refusal :=
  .next (s.withCtx l { s.ctx l with kpSh := wdata })

/-- RD KI_SH (R117). -/
def execRdKiSh (l : Loop) (s : State) : Host.Outcome State Fault Refusal := .next (s.respond (s.ctx l).kiSh)

/-- WR KI_SH (R118). -/
def execWrKiSh (l : Loop) (wdata : Word) (s : State) : Host.Outcome State Fault Refusal :=
  .next (s.withCtx l { s.ctx l with kiSh := wdata })

/-- RD KD_SH (R119). -/
def execRdKdSh (l : Loop) (s : State) : Host.Outcome State Fault Refusal := .next (s.respond (s.ctx l).kdSh)

/-- WR KD_SH (R120). -/
def execWrKdSh (l : Loop) (wdata : Word) (s : State) : Host.Outcome State Fault Refusal :=
  .next (s.withCtx l { s.ctx l with kdSh := wdata })

/-- The three copies of a commit, as one assignment (R121). -/
def Context.commit (c : Context) : Context := { c with kp := c.kpSh, ki := c.kiSh, kd := c.kdSh }

/-- WR CFG_COMMIT: WDATA is ignored (R121). -/
def execWrCfgCommit (l : Loop) (_wdata : Word) (s : State) : Host.Outcome State Fault Refusal :=
  .next (s.withCtx l (s.ctx l).commit)

/-- RD KP (R122). -/
def execRdKp (l : Loop) (s : State) : Host.Outcome State Fault Refusal := .next (s.respond (s.ctx l).kp)

/-- RD KI (R123). -/
def execRdKi (l : Loop) (s : State) : Host.Outcome State Fault Refusal := .next (s.respond (s.ctx l).ki)

/-- RD KD (R124). -/
def execRdKd (l : Loop) (s : State) : Host.Outcome State Fault Refusal := .next (s.respond (s.ctx l).kd)

end Sys2Proof.Machine
end

