-- ==== Sys2Proof/Machine/PidStep.lean ====
section
/-! DEFINITION. The PID compute step and the result registers: rules R144 to R153. -/
namespace Sys2Proof.Machine

/-- e: error = target - measured, saturated (R144). -/
def Context.error (c : Context) : Word := subSat c.target c.meas

/-- i: the integral after this step's update and clamp (R144). -/
def Context.nextInteg (c : Context) : Word := wrap 32 (integNext c.integ c.error)

/-- d: derivative = error - previousError, saturated and divided by no time (R144, R146). -/
def Context.deriv (c : Context) : Word := subSat c.error c.prevErr

/-- kp*error (R144). -/
def Context.nextPTerm (c : Context) : Word := mulQ c.kp c.error

/-- ki*integral, of the updated integral (R144). -/
def Context.nextITerm (c : Context) : Word := mulQ c.ki c.nextInteg

/-- kd*derivative (R144). -/
def Context.nextDTerm (c : Context) : Word := mulQ c.kd c.deriv

/-- output: the exact sum of the three terms, saturated once (R144). -/
def Context.nextOutput (c : Context) : Word :=
  sat 32 (c.nextPTerm.toInt + c.nextITerm.toInt + c.nextDTerm.toInt)

/-- One compute step, every new value from the old ones (R144, R145). -/
def Context.step (c : Context) : Context :=
  { c with integ := c.nextInteg, prevErr := c.error, pTerm := c.nextPTerm
           iTerm := c.nextITerm, dTerm := c.nextDTerm, output := c.nextOutput }

/-- WR STEP: WDATA is ignored (R144). -/
def execWrStep (l : Loop) (_wdata : Word) (s : State) : Host.Outcome State Fault Refusal :=
  .next (s.withCtx l (s.ctx l).step)

/-- RD INTEG (R148). -/
def execRdInteg (l : Loop) (s : State) : Host.Outcome State Fault Refusal := .next (s.respond (s.ctx l).integ)

/-- RD PREV_ERR (R149). -/
def execRdPrevErr (l : Loop) (s : State) : Host.Outcome State Fault Refusal := .next (s.respond (s.ctx l).prevErr)

/-- RD P_TERM (R150). -/
def execRdPTerm (l : Loop) (s : State) : Host.Outcome State Fault Refusal := .next (s.respond (s.ctx l).pTerm)

/-- RD I_TERM (R151). -/
def execRdITerm (l : Loop) (s : State) : Host.Outcome State Fault Refusal := .next (s.respond (s.ctx l).iTerm)

/-- RD D_TERM (R152). -/
def execRdDTerm (l : Loop) (s : State) : Host.Outcome State Fault Refusal := .next (s.respond (s.ctx l).dTerm)

/-- RD OUTPUT (R153). -/
def execRdOutput (l : Loop) (s : State) : Host.Outcome State Fault Refusal := .next (s.respond (s.ctx l).output)

end Sys2Proof.Machine
end

