-- ==== Sys2Proof/Machine/Dispatch.lean ====
section
/-! DEFINITION. The meaning of every operation of the opcode table: one arm per constructor of Instr. -/
namespace Sys2Proof.Machine

def exec (i : Instr) (s : State) : Host.Outcome State Fault Refusal :=
  match i with
  | .edge a b => Sys2Proof.Machine.execEdge a b s
  | .rdQdDrain => Sys2Proof.Machine.execRdQdDrain s
  | .rdQdStatus => Sys2Proof.Machine.execRdQdStatus s
  | .wrQdStatus wdata => Sys2Proof.Machine.execWrQdStatus wdata s
  | .rdTarget l => Sys2Proof.Machine.execRdTarget l s
  | .wrTarget l wdata => Sys2Proof.Machine.execWrTarget l wdata s
  | .rdMeas l => Sys2Proof.Machine.execRdMeas l s
  | .wrMeas l wdata => Sys2Proof.Machine.execWrMeas l wdata s
  | .rdKpSh l => Sys2Proof.Machine.execRdKpSh l s
  | .wrKpSh l wdata => Sys2Proof.Machine.execWrKpSh l wdata s
  | .rdKiSh l => Sys2Proof.Machine.execRdKiSh l s
  | .wrKiSh l wdata => Sys2Proof.Machine.execWrKiSh l wdata s
  | .rdKdSh l => Sys2Proof.Machine.execRdKdSh l s
  | .wrKdSh l wdata => Sys2Proof.Machine.execWrKdSh l wdata s
  | .wrCfgCommit l wdata => Sys2Proof.Machine.execWrCfgCommit l wdata s
  | .wrStep l wdata => Sys2Proof.Machine.execWrStep l wdata s
  | .rdKp l => Sys2Proof.Machine.execRdKp l s
  | .rdKi l => Sys2Proof.Machine.execRdKi l s
  | .rdKd l => Sys2Proof.Machine.execRdKd l s
  | .rdInteg l => Sys2Proof.Machine.execRdInteg l s
  | .rdPrevErr l => Sys2Proof.Machine.execRdPrevErr l s
  | .rdPTerm l => Sys2Proof.Machine.execRdPTerm l s
  | .rdITerm l => Sys2Proof.Machine.execRdITerm l s
  | .rdDTerm l => Sys2Proof.Machine.execRdDTerm l s
  | .rdOutput l => Sys2Proof.Machine.execRdOutput l s

end Sys2Proof.Machine
end

