-- ==== Sys2Proof/Machine/Perform.lean ====
section
/-! DEFINITION. Performing one event, whole and in one step (R15, R54). -/
namespace Sys2Proof.Machine

/-- One operation: not performed while reset is asserted (R190); an EDGE always has its meaning (R70); a transaction is
decoded and executed, or, if illegal, handled by R172 (R75). -/
def performOp (op : Operation) (s : State) : Host.Outcome State Fault Refusal :=
  match s.rst, op with
  | true, _ => .next (s.heldInReset op)
  | false, .edge ab => exec (decodeEdge ab) s
  | false, .bus t =>
    match decodeBus t with
    | .ok i => exec i s
    | .error _ => .next (s.illegal t)

/-- One event of the total order (R56). -/
def perform (ev : Event) (s : State) : Host.Outcome State Fault Refusal :=
  match ev with
  | .op op => performOp op s
  | .reset e => .next (s.applyReset e)

/-- A sequence of events, performed one after another (R56). -/
def performAll : List Event → State → Host.Outcome State Fault Refusal
  | [], s => .next s
  | ev :: more, s =>
    match perform ev s with
    | .next s' => performAll more s'
    | .fault f => .fault f
    | .refused r => .refused r

/-- `MemRead(a, 4)`: one 32-bit host read (R13). -/
def memRead (a : Offset) (s : State) : Host.Outcome State Fault Refusal := performOp (.bus (.read a 0b10#2)) s

/-- `MemWrite(a, 4, v)`: one 32-bit host write (R13). -/
def memWrite (a : Offset) (v : Word) (s : State) : Host.Outcome State Fault Refusal :=
  performOp (.bus (.write a 0b10#2 v)) s

end Sys2Proof.Machine
end

