-- ==== Sys2Proof/Machine/Step.lean ====
section
/-! DEFINITION. One step of the machine: the next event of the total order is performed whole (R15, R56). -/
namespace Sys2Proof.Machine

/-- One step. With no event to perform the block idles (R180, log entry 3). -/
def step (s : State) : Host.Outcome State Fault Refusal :=
  match s.nextEvent with
  | (none, s') => .next s'
  | (some ev, s') => perform ev s'

/-- `s` with the operation that a word of spec/opcode_table.json stands for as its next event (log entry 4). -/
def State.withFetchWord (s : State) (nbits w : Nat) : State :=
  match Operation.ofTableWord nbits w with
  | some op => s.present op
  | none => s

end Sys2Proof.Machine
end

