-- ==== Sys2Proof/Machine/Pseudo.lean ====
section
/-! DEFINITION. The lines of a host program or test sequence (R78), the pseudo-operations (R79), and the performing of a sequence
of operations. -/
namespace Sys2Proof.Machine

/-- The pseudo-operations of R79. -/
inductive Pseudo where
  /-- `CFG X, kp, ki, kd`. -/
  | cfg (l : Loop) (kp ki kd : Word)
  /-- `PID X, target, measured`. -/
  | pid (l : Loop) (target measured : Word)
  /-- `CLRFLAGS`. -/
  | clrFlags
  deriving DecidableEq, Repr

/-- The expansions of R79; a trigger's omitted value is 0 (R78). -/
def Pseudo.expand : Pseudo → List Instr
  | .cfg l kp ki kd => [.wrKpSh l kp, .wrKiSh l ki, .wrKdSh l kd, .wrCfgCommit l 0#32]
  | .pid l target measured => [.wrTarget l target, .wrMeas l measured, .wrStep l 0#32]
  | .clrFlags => [.wrQdStatus 0x0000000C#32]

/-- One line of the assembly syntax of R78, without its text. -/
inductive Line where
  /-- `EDGE ab`, `RD <reg>` or `WR <reg>, <value>`. -/
  | op (i : Instr)
  /-- `RDRAW` or `WRRAW`: any transaction, illegal ones too. -/
  | raw (t : BusTxn)
  /-- A pseudo-operation (R79). -/
  | pseudo (p : Pseudo)
  /-- `RESET ab`: assert then release reset, with pins `ab` at release. -/
  | reset (a b : Bool)
  deriving DecidableEq, Repr

/-- The events a line stands for (R78, R79). -/
def Line.events : Line → List Event
  | .op i => [.op (encode i)]
  | .raw t => [.op (.bus t)]
  | .pseudo p => p.expand.map fun i => .op (encode i)
  | .reset a b => [.reset .assertRst, .reset (.releaseRst a b)]

/-- `repeat n { ... }` and a sequence of lines: notation for the expanded sequence (R78). -/
def repeatLines (n : Nat) (body : List Line) : List Event := ((List.replicate n body).flatten.map Line.events).flatten

/-- Operations performed one after another, nothing between them (R56). -/
def execAll : List Instr → State → Host.Outcome State Fault Refusal
  | [], s => .next s
  | i :: more, s =>
    match exec i s with
    | .next s' => execAll more s'
    | .fault f => .fault f
    | .refused r => .refused r

end Sys2Proof.Machine
end

