-- ==== Sys2Proof/Safety.lean ====
section
/-! DEFINITION. The terms that claims about runs use: the invariant of R32, and the accounts of ticks that R59 and R97
speak of. Nothing here is state of the block. -/
namespace Sys2Proof.Machine

/-- `-ILIM <= sval(INTEG) <= ILIM` (R32). -/
abbrev Context.IntegBounded (c : Context) : Prop :=
  -Config.ilim ≤ c.integ.toInt ∧ c.integ.toInt ≤ Config.ilim

/-- The invariant of R32, for both contexts. -/
abbrev State.Inv (s : State) : Prop := s.vel.IntegBounded ∧ s.pos.IntegBounded

/-- `sat_W` as a value (R12, W = 32). -/
def satW (v : Int) : Int := min (max v (-2147483648)) 2147483647

/-- The register at index `idx` of a context; the triggers CFG_COMMIT and STEP hold nothing (R29). -/
def Context.slot (c : Context) (idx : BitVec 4) : Option Word :=
  match idx.toNat with
  | 0 => some c.target
  | 1 => some c.meas
  | 2 => some c.kpSh
  | 3 => some c.kiSh
  | 4 => some c.kdSh
  | 5 => none
  | 6 => none
  | 7 => some c.kp
  | 8 => some c.ki
  | 9 => some c.kd
  | 10 => some c.integ
  | 11 => some c.prevErr
  | 12 => some c.pTerm
  | 13 => some c.iTerm
  | 14 => some c.dTerm
  | _ => some c.output

/-- The admitted operation that the next step performs: none where nothing comes, the reset input changes, reset is
asserted (R190), or the transaction is illegal (R172). -/
def State.nextInstr (s : State) : Option Instr :=
  match s.nextEvent.1, s.rst with
  | some (.op op), false =>
    match decode op with
    | .ok i => some i
    | .error _ => none
  | some (.op _), true => none
  | some (.reset _), _ => none
  | none, _ => none

/-- The accounts of a run since reset (R59, R97). -/
structure Account where
  /-- S: the sum of the values that the QD_DRAIN reads returned (R59). -/
  drained : Int
  /-- D: the sum of the deltas of the EDGE operations (R59). -/
  counted : Int
  /-- ACC_OVF has been 1 after some operation. -/
  sawOvf : Bool
  /-- EDGE operations since the latest drain. -/
  gap : Nat
  /-- The greatest `gap` there has been. -/
  maxGap : Nat
  deriving DecidableEq, Repr

/-- The accounts at a release of reset. -/
def Account.zero : Account := { drained := 0, counted := 0, sawOvf := false, gap := 0, maxGap := 0 }

/-- The value of the data that the latest read returned. -/
def State.returned (s : State) : Int :=
  match s.rdata with
  | some v => v.toInt
  | none => 0

/-- The accounts after the step from `s` to `s'`. A release of reset starts them afresh. -/
def Account.after (g : Account) (s s' : State) : Account :=
  match s.nextEvent.1, s.nextInstr with
  | some (.reset (.releaseRst _ _)), _ => Account.zero
  | _, some (.edge a b) =>
    { g with counted := g.counted + delta s.phase (phaseOf a b), sawOvf := g.sawOvf || s'.accOvf
             gap := g.gap + 1, maxGap := max g.maxGap (g.gap + 1) }
  | _, some .rdQdDrain => { g with drained := g.drained + s'.returned, sawOvf := g.sawOvf || s'.accOvf, gap := 0 }
  | _, _ => { g with sawOvf := g.sawOvf || s'.accOvf }

/-- `S + A = D` as long as ACC_OVF has not been 1 (R59, read as log entry 5 says). -/
abbrev Account.Conserves (g : Account) (s : State) : Prop :=
  g.sawOvf = false → g.drained + s.acc.toInt = g.counted

/-- `S + A = D` modulo 2^ACC_WIDTH, with or without overflow (R59, last part). -/
abbrev Account.ConservesModulo (g : Account) (s : State) : Prop :=
  (g.drained + s.acc.toInt - g.counted) % 256 = 0

/-- As long as no more than 63 EDGEs came between two drains, ACC_OVF is 0 and ACC is at most 2 for each EDGE since the
latest drain (R97: a delta is at most 2 in magnitude, R91). -/
abbrev Account.DrainedInTime (g : Account) (s : State) : Prop :=
  g.gap ≤ g.maxGap ∧ (g.maxGap ≤ 63 → s.accOvf = false ∧ -(2 * g.gap) ≤ s.acc.toInt ∧ s.acc.toInt ≤ 2 * g.gap)

/-- A run of the machine, with its accounts: any number of steps from `s` with accounts `g`. -/
inductive Run (s : State) (g : Account) : State → Account → Prop where
  | start : Run s g s g
  | more {s₁ s₂ : State} {g₁ : Account} : Run s g s₁ g₁ → step s₁ = .next s₂ → Run s g s₂ (g₁.after s₁ s₂)

/-- The EDGE operations of a sequence of samples (R96). -/
def edgesOf (samples : List (Bool × Bool)) : List Instr := samples.map fun p => .edge p.1 p.2

/-- The phases that a sequence of samples passes through, from `p` on (R96). -/
def phasesFrom (p : Phase) : List (Bool × Bool) → Phase
  | [] => p
  | (a, b) :: more => phasesFrom (phaseOf a b) more

/-- `sum delta(p_{k-1}, p_k)` (R96). -/
def deltaSum (p : Phase) : List (Bool × Bool) → Int
  | [] => 0
  | (a, b) :: more => delta p (phaseOf a b) + deltaSum (phaseOf a b) more

/-- How many steps of the sequence go from phase `old` to phase `new` (R96: 3→0 forward wraps, 0→3 reverse wraps). -/
def countSteps (old new p : Phase) : List (Bool × Bool) → Nat
  | [] => 0
  | (a, b) :: more =>
    (if p = old ∧ phaseOf a b = new then 1 else 0) + countSteps old new (phaseOf a b) more

/-- Every step of the sequence has delta `d` (R97: a pure rotation without skips has d = 1 or d = -1). -/
def allDeltas (d : Int) (p : Phase) : List (Bool × Bool) → Prop
  | [] => True
  | (a, b) :: more => delta p (phaseOf a b) = d ∧ allDeltas d (phaseOf a b) more

end Sys2Proof.Machine
end

