-- ==== Sys2Proof/Certificates/Slice0/Obligations.lean ====
section
/-! DEFINITION. The statements for the provers: what the numbered rules of spec/ say the block does. The rules speak of
registers. RDATA, the agents' lists and the schedule are the model's own fields (log entries 7 and 2), so a clause that
keeps one of them rests on the log entry its docstring names. -/

open Sys2Proof Sys2Proof.Machine

/-! The quadrature decoder. -/

/-- R90: the four samples and their phases, and the formula. -/
def Obligations.PhaseFollowsGrayCycle : Prop :=
  phaseOf false false = 0#2 ∧ phaseOf false true = 1#2 ∧ phaseOf true true = 2#2 ∧ phaseOf true false = 3#2 ∧
    ∀ a b, phaseOf a b = BitVec.ofBool a ++ BitVec.ofBool (a ^^ b)

/-- R91: the table of deltas, rows `old`, columns `new`, and the three cases it is made from. -/
def Obligations.DeltaMatchesTable : Prop :=
  (∀ old new : Phase, delta old new =
    ((([[0, 1, 2, -1], [-1, 0, 1, 2], [-2, -1, 0, 1], [1, -2, -1, 0]] : List (List Int)).getD old.toNat []).getD
      new.toNat 0)) ∧
    delta 3#2 0#2 = 1 ∧ delta 0#2 3#2 = -1 ∧
    ∀ old new : Phase, ¬ (old = 3#2 ∧ new = 0#2) → ¬ (old = 0#2 ∧ new = 3#2) →
      delta old new = (new.toNat : Int) - (old.toNat : Int)

/-- R92, R70: an EDGE of sample `ab` completes; PHASE, ACC and ACC_OVF take the values of the pseudocode, and nothing
else changes. That RDATA is kept is log entry 7, the model's choice. -/
def Obligations.EdgeCountsIntoAcc : Prop :=
  (∀ ab : BitVec 2, decode (.edge ab) = .ok (.edge (ab.getLsbD 1) (ab.getLsbD 0))) ∧
    ∀ (a b : Bool) (s : State), exec (.edge a b) s = .next { s with
      phase := phaseOf a b
      acc := BitVec.ofInt 8 (s.acc.toInt + delta s.phase (phaseOf a b))
      accOvf := s.accOvf || decide (s.acc.toInt + delta s.phase (phaseOf a b) < -128) ||
        decide (127 < s.acc.toInt + delta s.phase (phaseOf a b)) }

/-- R171: when an EDGE sets ACC_OVF, what stays in ACC, and what clears the flag. That RDATA is kept is log entry 7,
the model's choice. -/
def Obligations.AccOverflowSetsFlagAndWraps : Prop :=
  (∀ (a b : Bool) (s t : State), exec (.edge a b) s = .next t →
    (-128 ≤ s.acc.toInt + delta s.phase (phaseOf a b) ∧ s.acc.toInt + delta s.phase (phaseOf a b) ≤ 127 →
      t.accOvf = s.accOvf ∧ t.acc.toInt = s.acc.toInt + delta s.phase (phaseOf a b)) ∧
    (127 < s.acc.toInt + delta s.phase (phaseOf a b) →
      t.accOvf = true ∧ t.acc.toInt = s.acc.toInt + delta s.phase (phaseOf a b) - 256) ∧
    (s.acc.toInt + delta s.phase (phaseOf a b) < -128 →
      t.accOvf = true ∧ t.acc.toInt = s.acc.toInt + delta s.phase (phaseOf a b) + 256) ∧
    t = { s with phase := t.phase, acc := t.acc, accOvf := t.accOvf }) ∧
  (∀ (v : Word) (s t : State), exec (.wrQdStatus v) s = .next t → v.getLsbD 2 = true → t.accOvf = false) ∧
  (∀ (a b : Bool) (s t : State), perform (.reset (.releaseRst a b)) s = .next t → t.accOvf = false)

/-- R93: the drain returns ACC, sign extended, and zeroes it in the same step; a second drain returns 0; a write to
the offset is illegal and leaves ACC; an EDGE comes wholly before or wholly after. That RDATA is kept by an illegal
write, and by an EDGE after the drain, is log entry 7, the model's choice. -/
def Obligations.DrainReadsAndZeroes : Prop :=
  decode (.bus (.read 0x00#8 0b10#2)) = .ok .rdQdDrain ∧
    (∀ s : State, exec .rdQdDrain s = .next { s with rdata := some (s.acc.signExtend 32), acc := 0#8 } ∧
      (s.acc.signExtend 32).toInt = s.acc.toInt ∧
      execAll [.rdQdDrain, .rdQdDrain] s = .next { s with rdata := some 0#32, acc := 0#8 } ∧
      (s.rst = false → ∀ v, memWrite 0x00#8 v s = .next { s with busErr := true })) ∧
    ∀ (a b : Bool) (s : State), ∃ t u,
      execAll [.edge a b, .rdQdDrain] s = .next t ∧ t.acc = 0#8 ∧
        t.rdata = some ((BitVec.ofInt 8 (s.acc.toInt + delta s.phase (phaseOf a b))).signExtend 32) ∧
      execAll [.rdQdDrain, .edge a b] s = .next u ∧ u.acc.toInt = delta s.phase (phaseOf a b) ∧
        u.rdata = some (s.acc.signExtend 32)

/-- R94, R27: RD QD_STATUS returns PHASE in bits 1:0, ACC_OVF in bit 2, BUS_ERR in bit 3 and zeros above, and clears
nothing. -/
def Obligations.StatusReadShowsFields : Prop :=
  decode (.bus (.read 0x04#8 0b10#2)) = .ok .rdQdStatus ∧
    ∀ s : State, ∃ v : Word, exec .rdQdStatus s = .next { s with rdata := some v } ∧
      v.extractLsb' 0 2 = s.phase ∧ v.getLsbD 2 = s.accOvf ∧ v.getLsbD 3 = s.busErr ∧ v.extractLsb' 4 28 = 0#28

/-- R95: WR QD_STATUS clears exactly the flags whose bits are written 1; the other bits of WDATA have no effect. That
RDATA is kept is log entry 7, the model's choice. -/
def Obligations.StatusWriteClearsWrittenOnes : Prop :=
  (∀ v : Word, decode (.bus (.write 0x04#8 0b10#2 v)) = .ok (.wrQdStatus v)) ∧
    (∀ (v : Word) (s : State), exec (.wrQdStatus v) s = .next { s with
      accOvf := s.accOvf && !(v.getLsbD 2), busErr := s.busErr && !(v.getLsbD 3) }) ∧
    (∀ s : State, exec (.wrQdStatus 0#32) s = .next s) ∧
    ∀ (v w : Word) (s : State), v.getLsbD 2 = w.getLsbD 2 → v.getLsbD 3 = w.getLsbD 3 →
      exec (.wrQdStatus v) s = exec (.wrQdStatus w) s

/-- R25: only an EDGE whose sum leaves the range sets ACC_OVF; only a write of 1 to QD_STATUS[2] or a reset clears it;
the drain does not. -/
def Obligations.AccOvfIsSticky : Prop :=
  ∀ s t : State, step s = .next t →
    (s.accOvf = false → t.accOvf = true → ∃ a b, s.nextInstr = some (.edge a b) ∧
      (s.acc.toInt + delta s.phase (phaseOf a b) < -128 ∨ 127 < s.acc.toInt + delta s.phase (phaseOf a b))) ∧
    (s.accOvf = true → t.accOvf = false →
      (∃ v, s.nextInstr = some (.wrQdStatus v) ∧ v.getLsbD 2 = true) ∨
      (∃ a b, s.nextEvent.1 = some (.reset (.releaseRst a b)))) ∧
    (∀ a b, s.nextInstr = some (.edge a b) →
      (s.acc.toInt + delta s.phase (phaseOf a b) < -128 ∨ 127 < s.acc.toInt + delta s.phase (phaseOf a b)) →
      t.accOvf = true)

/-- R26: BUS_ERR is set by a transaction that the register map does not admit, and by nothing else; only a write of 1 to
QD_STATUS[3] or a reset clears it. -/
def Obligations.BusErrIsSticky : Prop :=
  ∀ s t : State, step s = .next t →
    (s.busErr = false → t.busErr = true → s.rst = false ∧
      ∃ u r, s.nextEvent.1 = some (.op (.bus u)) ∧ decodeBus u = .error r) ∧
    (s.busErr = true → t.busErr = false →
      (∃ v, s.nextInstr = some (.wrQdStatus v) ∧ v.getLsbD 3 = true) ∨
      (∃ a b, s.nextEvent.1 = some (.reset (.releaseRst a b)))) ∧
    (∀ u r, s.rst = false → s.nextEvent.1 = some (.op (.bus u)) → decodeBus u = .error r → t.busErr = true)

/-- R23, R24: only EDGE and the release of reset write PHASE; only EDGE, the drain and the release write ACC. -/
def Obligations.PhaseAndAccHaveTheirWritersOnly : Prop :=
  ∀ s t : State, step s = .next t →
    (t.phase = s.phase ∨ (∃ a b, s.nextInstr = some (.edge a b) ∧ t.phase = phaseOf a b) ∨
      (∃ a b, s.nextEvent.1 = some (.reset (.releaseRst a b)) ∧ t.phase = phaseOf a b)) ∧
    (t.acc = s.acc ∨ (∃ a b, s.nextInstr = some (.edge a b)) ∨
      (s.nextInstr = some .rdQdDrain ∧ t.acc = 0#8 ∧ t.rdata = some (s.acc.signExtend 32)) ∨
      (∃ a b, s.nextEvent.1 = some (.reset (.releaseRst a b)) ∧ t.acc = 0#8))

/-- R96: over any sequence of samples, ACC gains the sum of the deltas (modulo 2^ACC_WIDTH), PHASE is the last sample's,
and the sum is the phase difference plus four times the forward wraps less the reverse wraps. -/
def Obligations.EdgesAddTheSumOfDeltas : Prop :=
  ∀ (samples : List (Bool × Bool)) (s : State), ∃ t,
    execAll (edgesOf samples) s = .next t ∧
    t.phase = phasesFrom s.phase samples ∧
    (t.acc.toInt - (s.acc.toInt + deltaSum s.phase samples)) % 256 = 0 ∧
    deltaSum s.phase samples = (phasesFrom s.phase samples).toNat - s.phase.toNat +
      4 * ((countSteps 3#2 0#2 s.phase samples : Int) - countSteps 0#2 3#2 s.phase samples)

/-- R97, second bound: a pure rotation of at most 127 unskipped EDGEs from a drained accumulator never overflows, and is
counted exactly. -/
def Obligations.PureRotationCountsTo127 : Prop :=
  ∀ (samples : List (Bool × Bool)) (d : Int) (s : State), (d = 1 ∨ d = -1) → allDeltas d s.phase samples →
    samples.length ≤ 127 → s.acc = 0#8 → s.accOvf = false →
    ∃ t, execAll (edgesOf samples) s = .next t ∧ t.accOvf = false ∧ t.acc.toInt = d * samples.length

/-- R57, R93: an EDGE and a drain that meet may take either order; the ticks returned plus the ticks left are the same
(exactly when the sum fits, else modulo 2^ACC_WIDTH), and so is PHASE. RDATA is read after the EDGE too: that the EDGE
keeps it is log entry 7, the model's choice. -/
def Obligations.EdgeAndDrainInEitherOrder : Prop :=
  ∀ (a b : Bool) (s : State), ∃ t u,
    execAll [.edge a b, .rdQdDrain] s = .next t ∧ execAll [.rdQdDrain, .edge a b] s = .next u ∧
    t.phase = u.phase ∧ ((t.returned + t.acc.toInt) - (u.returned + u.acc.toInt)) % 256 = 0 ∧
    (-128 ≤ s.acc.toInt + delta s.phase (phaseOf a b) → s.acc.toInt + delta s.phase (phaseOf a b) ≤ 127 →
      t.returned + t.acc.toInt = u.returned + u.acc.toInt ∧
      t.returned + t.acc.toInt = s.acc.toInt + delta s.phase (phaseOf a b))

/-! Accounts of ticks over whole runs. -/

/-- R59 (as the model reads it, log entry 5: ACC_OVF has never been 1 since reset): from a drained accumulator, in any run
and any interleaving, the values drained plus what is left in ACC are the sum of the deltas. -/
def Obligations.DrainsConserveTicks : Prop :=
  ∀ (s t : State) (g : Account), s.acc = 0#8 → Run s Account.zero t g → g.sawOvf = false →
    g.drained + t.acc.toInt = g.counted

/-- R59, last part: with or without overflow, the law holds modulo 2^ACC_WIDTH. -/
def Obligations.DrainsConserveTicksModulo : Prop :=
  ∀ (s t : State) (g : Account), s.acc = 0#8 → Run s Account.zero t g →
    (g.drained + t.acc.toInt - g.counted) % 256 = 0

/-- R97, first bound: where no more than 63 EDGE operations ever come between two drains, ACC_OVF is never set, in any run
and any interleaving. -/
def Obligations.DrainsInTimePreventOverflow : Prop :=
  ∀ (s t : State) (g : Account), s.acc = 0#8 → s.accOvf = false → Run s Account.zero t g → g.maxGap ≤ 63 →
    t.accOvf = false

/-! The PID arithmetic. -/

/-- R141. -/
def Obligations.DifferenceSaturates : Prop :=
  (∀ x y : Word, (subSat x y).toInt = satW (x.toInt - y.toInt)) ∧
    subSat 0x7FFFFFFF#32 0x80000000#32 = 0x7FFFFFFF#32 ∧ subSat 0x80000000#32 0x00000001#32 = 0x80000000#32

/-- R142: the exact product, divided by 2^16 with rounding toward minus infinity (quotient `q`, remainder `r`), then
saturated; and the four consequences. -/
def Obligations.ProductFloorsThenSaturates : Prop :=
  (∀ k x : Word, ∃ q r : Int, k.toInt * x.toInt = q * 65536 + r ∧ 0 ≤ r ∧ r < 65536 ∧ (mulQ k x).toInt = satW q) ∧
    mulQ 0x00008000#32 0xFFFFFFFF#32 = 0xFFFFFFFF#32 ∧ mulQ 0x00008000#32 0x00000001#32 = 0x00000000#32 ∧
    (∀ x : Word, mulQ 0x00010000#32 x = x) ∧ ∀ x : Word, mulQ 0#32 x = 0#32

/-- R142, R12: the product is a 64-bit multiplication of the sign-extended words, an arithmetic shift right by 16, and a
saturation. -/
def Obligations.ProductIsShiftedWideProduct : Prop :=
  ∀ k x : Word, (mulQ k x).toInt =
    satW (((k.signExtend 64 * x.signExtend 64).sshiftRight 16).toInt)

/-- R143: the exact sum, clamped to the inclusive bounds; the register holds it exactly; at +ILIM a positive error
leaves the integral and a negative one moves it down at once. -/
def Obligations.IntegralClampsInclusively : Prop :=
  Config.ilim = 65536000 ∧
    (∀ i e : Word, integNext i e = min (max (i.toInt + e.toInt) (-65536000)) 65536000 ∧
      (wrap 32 (integNext i e)).toInt = integNext i e) ∧
    (∀ i e : Word, i.toInt = 65536000 → 0 < e.toInt → integNext i e = 65536000) ∧
    ∀ i e : Word, i.toInt = 65536000 → e.toInt < 0 → integNext i e = max (65536000 + e.toInt) (-65536000)

/-! The PID step. -/

/-- R144: WR STEP of context L completes; with e, i, d and the three terms as values, every register the step writes,
and nothing else, changes. WDATA is ignored. That RDATA is kept is log entry 7, the model's choice. -/
def Obligations.StepComputesThePidTerms : Prop :=
  (∀ v : Word, decode (.bus (.write 0x98#8 0b10#2 v)) = .ok (.wrStep .velocity v) ∧
    decode (.bus (.write 0xD8#8 0b10#2 v)) = .ok (.wrStep .position v)) ∧
  ∀ (l : Loop) (v : Word) (s : State), ∃ c : Context, exec (.wrStep l v) s = .next (s.withCtx l c) ∧
    c.prevErr.toInt = satW ((s.ctx l).target.toInt - (s.ctx l).meas.toInt) ∧
    c.integ.toInt = min (max ((s.ctx l).integ.toInt + c.prevErr.toInt) (-65536000)) 65536000 ∧
    c.pTerm.toInt = satW (((s.ctx l).kp.toInt * c.prevErr.toInt).fdiv 65536) ∧
    c.iTerm.toInt = satW (((s.ctx l).ki.toInt * c.integ.toInt).fdiv 65536) ∧
    c.dTerm.toInt = satW (((s.ctx l).kd.toInt * satW (c.prevErr.toInt - (s.ctx l).prevErr.toInt)).fdiv 65536) ∧
    c.output.toInt = satW (c.pTerm.toInt + c.iTerm.toInt + c.dTerm.toInt) ∧
    c = { s.ctx l with integ := c.integ, prevErr := c.prevErr, pTerm := c.pTerm, iTerm := c.iTerm
                       dTerm := c.dTerm, output := c.output } ∧
    ∀ w : Word, exec (.wrStep l w) s = exec (.wrStep l v) s

/-- R147: a STEP of context L writes only CTX[L] (`t` is `s` but for that context) and reads only CTX[L] (from any state
that agrees with `s` on it, the context gets the same new value); so it neither reads nor writes the other context, and the
steps of V and P commute. That RDATA is kept is log entry 7, that the agents' lists and the schedule are kept is log
entry 2, and that the level of rst is kept is log entry 8: the model's choices. -/
def Obligations.StepsOfTheContextsCommute : Prop :=
  (∀ (l : Loop) (v : Word) (s t : State), exec (.wrStep l v) s = .next t →
    t = s.withCtx l (t.ctx l) ∧
    ∀ u : State, u.ctx l = s.ctx l → exec (.wrStep l v) u = .next (u.withCtx l (t.ctx l))) ∧
  (∀ (l m : Loop) (v : Word) (c : Context) (s t : State), m ≠ l → exec (.wrStep l v) s = .next t →
    t.ctx m = s.ctx m ∧ exec (.wrStep l v) (s.withCtx m c) = .next (t.withCtx m c)) ∧
  ∀ (v w : Word) (s : State), execAll [.wrStep .velocity v, .wrStep .position w] s =
    execAll [.wrStep .position w, .wrStep .velocity v] s

/-- R144 (corner case), R193: with all gains 0 a STEP gives zero terms and a zero output, while INTEG and PREV_ERR still
update; with TARGET = MEAS the error is 0 and INTEG, where bounded, stays. -/
def Obligations.ZeroGainsGiveZeroOutput : Prop :=
  (∀ (l : Loop) (v : Word) (s : State), (s.ctx l).kp = 0#32 → (s.ctx l).ki = 0#32 → (s.ctx l).kd = 0#32 →
    ∃ t, exec (.wrStep l v) s = .next t ∧ (t.ctx l).pTerm = 0#32 ∧ (t.ctx l).iTerm = 0#32 ∧ (t.ctx l).dTerm = 0#32 ∧
      (t.ctx l).output = 0#32 ∧ (t.ctx l).prevErr.toInt = satW ((s.ctx l).target.toInt - (s.ctx l).meas.toInt) ∧
      (t.ctx l).integ.toInt = min (max ((s.ctx l).integ.toInt + (t.ctx l).prevErr.toInt) (-65536000)) 65536000) ∧
  ∀ (l : Loop) (v : Word) (s : State), (s.ctx l).target = (s.ctx l).meas → (s.ctx l).IntegBounded →
    ∃ t, exec (.wrStep l v) s = .next t ∧ (t.ctx l).prevErr = 0#32 ∧ (t.ctx l).integ = (s.ctx l).integ

/-- R193: as long as a context's configuration is not committed, its active gains and its OUTPUT stay 0, whatever else
happens. -/
def Obligations.OutputStaysZeroUntilCommit : Prop :=
  ∀ (l : Loop) (s t : State), step s = .next t → (∀ v, s.nextInstr ≠ some (.wrCfgCommit l v)) →
    (s.ctx l).kp = 0#32 ∧ (s.ctx l).ki = 0#32 ∧ (s.ctx l).kd = 0#32 ∧ (s.ctx l).output = 0#32 →
    (t.ctx l).kp = 0#32 ∧ (t.ctx l).ki = 0#32 ∧ (t.ctx l).kd = 0#32 ∧ (t.ctx l).output = 0#32

/-- R154: after every STEP the integral lies in [-1000.0, 1000.0], from any state, and I_TERM is at most
|KI| * INTEG_LIMIT and 2^31 in magnitude. -/
def Obligations.StepBoundsIntegralAndItsTerm : Prop :=
  ∀ (l : Loop) (v : Word) (s t : State), exec (.wrStep l v) s = .next t →
    -65536000 ≤ (t.ctx l).integ.toInt ∧ (t.ctx l).integ.toInt ≤ 65536000 ∧
    ((t.ctx l).iTerm.toInt.natAbs : Int) ≤ min 2147483648 ((s.ctx l).ki.toInt.natAbs * Config.integLimit)

/-- R32: every step, whatever the agents bring, keeps the integral of both contexts within its limits. -/
def Obligations.IntegralBoundIsInvariant : Prop :=
  ∀ s t : State, s.Inv → step s = .next t → t.Inv

/-- R32: the bound holds right after reset, and after every release of reset. -/
def Obligations.IntegralBoundHoldsAtReset : Prop :=
  State.reset.Inv ∧ ∀ (a b : Bool) (s t : State), perform (.reset (.releaseRst a b)) s = .next t → t.Inv

/-! Who writes the registers of a context. -/

/-- R30: KP, KI and KD change only together, by a commit, which copies the three shadows, or by a reset. -/
def Obligations.GainsChangeOnlyByCommit : Prop :=
  ∀ (l : Loop) (s t : State), step s = .next t →
    ((t.ctx l).kp = (s.ctx l).kp ∧ (t.ctx l).ki = (s.ctx l).ki ∧ (t.ctx l).kd = (s.ctx l).kd) ∨
    ((∃ v, s.nextInstr = some (.wrCfgCommit l v)) ∧
      (t.ctx l).kp = (s.ctx l).kpSh ∧ (t.ctx l).ki = (s.ctx l).kiSh ∧ (t.ctx l).kd = (s.ctx l).kdSh) ∨
    ((∃ a b, s.nextEvent.1 = some (.reset (.releaseRst a b))) ∧
      (t.ctx l).kp = 0#32 ∧ (t.ctx l).ki = 0#32 ∧ (t.ctx l).kd = 0#32)

/-- R31 (and R33, last sentence): INTEG, PREV_ERR, the terms and OUTPUT of a context change only by that context's STEP, or
on reset. -/
def Obligations.PidStateChangesOnlyByStep : Prop :=
  ∀ (l : Loop) (s t : State), step s = .next t →
    ((t.ctx l).integ = (s.ctx l).integ ∧ (t.ctx l).prevErr = (s.ctx l).prevErr ∧ (t.ctx l).pTerm = (s.ctx l).pTerm ∧
      (t.ctx l).iTerm = (s.ctx l).iTerm ∧ (t.ctx l).dTerm = (s.ctx l).dTerm ∧ (t.ctx l).output = (s.ctx l).output) ∨
    (∃ v, s.nextInstr = some (.wrStep l v)) ∨
    ((∃ a b, s.nextEvent.1 = some (.reset (.releaseRst a b))) ∧ t.ctx l = Context.zero)

/-- R121: the commit copies the three shadows, at once, and touches nothing else; WDATA is ignored; committing twice
is committing once. That RDATA is kept is log entry 7, the model's choice. -/
def Obligations.CommitReplacesTheGains : Prop :=
  (∀ v : Word, decode (.bus (.write 0x94#8 0b10#2 v)) = .ok (.wrCfgCommit .velocity v) ∧
    decode (.bus (.write 0xD4#8 0b10#2 v)) = .ok (.wrCfgCommit .position v)) ∧
  ∀ (l : Loop) (v w : Word) (s : State),
    exec (.wrCfgCommit l v) s = .next (s.withCtx l
      { s.ctx l with kp := (s.ctx l).kpSh, ki := (s.ctx l).kiSh, kd := (s.ctx l).kdSh }) ∧
    execAll [.wrCfgCommit l v, .wrCfgCommit l w] s = exec (.wrCfgCommit l v) s

/-- R28: an operation on one context reads and writes nothing of the other. -/
def Obligations.ContextsAreIndependent : Prop :=
  ∀ (i : Instr) (l m : Loop) (c : Context) (s t : State), i.loop? = some l → m ≠ l → exec i s = .next t →
    t.ctx m = s.ctx m ∧ exec i (s.withCtx m c) = .next (t.withCtx m c)

/-- R116, R118, R120, R197: a staged gain does not reach a STEP before the commit: the shadow write and the STEP
commute. -/
def Obligations.StagedGainsDoNotReachTheStep : Prop :=
  ∀ (l m : Loop) (v w : Word) (s : State),
    execAll [.wrKpSh l v, .wrStep m w] s = execAll [.wrStep m w, .wrKpSh l v] s ∧
    execAll [.wrKiSh l v, .wrStep m w] s = execAll [.wrStep m w, .wrKiSh l v] s ∧
    execAll [.wrKdSh l v, .wrStep m w] s = execAll [.wrStep m w, .wrKdSh l v] s

/-! The reads and writes of the contexts, and the frame. -/

/-- R111, R113, R115, R117, R119: the reads of the step inputs and the shadow gains complete, return the register and
change nothing else. -/
def Obligations.InputAndShadowReadsReturnTheRegister : Prop :=
  ∀ (l : Loop) (s : State),
    exec (.rdTarget l) s = .next { s with rdata := some (s.ctx l).target } ∧
    exec (.rdMeas l) s = .next { s with rdata := some (s.ctx l).meas } ∧
    exec (.rdKpSh l) s = .next { s with rdata := some (s.ctx l).kpSh } ∧
    exec (.rdKiSh l) s = .next { s with rdata := some (s.ctx l).kiSh } ∧
    exec (.rdKdSh l) s = .next { s with rdata := some (s.ctx l).kdSh }

/-- R122 to R124 and R148 to R153: the reads of the active gains and of the result registers complete, return the
register and change nothing else. -/
def Obligations.GainAndResultReadsReturnTheRegister : Prop :=
  ∀ (l : Loop) (s : State),
    exec (.rdKp l) s = .next { s with rdata := some (s.ctx l).kp } ∧
    exec (.rdKi l) s = .next { s with rdata := some (s.ctx l).ki } ∧
    exec (.rdKd l) s = .next { s with rdata := some (s.ctx l).kd } ∧
    exec (.rdInteg l) s = .next { s with rdata := some (s.ctx l).integ } ∧
    exec (.rdPrevErr l) s = .next { s with rdata := some (s.ctx l).prevErr } ∧
    exec (.rdPTerm l) s = .next { s with rdata := some (s.ctx l).pTerm } ∧
    exec (.rdITerm l) s = .next { s with rdata := some (s.ctx l).iTerm } ∧
    exec (.rdDTerm l) s = .next { s with rdata := some (s.ctx l).dTerm } ∧
    exec (.rdOutput l) s = .next { s with rdata := some (s.ctx l).output }

/-- R112, R114, R116, R118, R120: the writes of the step inputs and the shadow gains complete, store the whole WDATA
and change no other register; a read then returns it. That the write keeps RDATA as well is log entry 7, the model's
choice, and no part of these rules. -/
def Obligations.InputAndShadowWritesStoreTheWord : Prop :=
  ∀ (l : Loop) (v : Word) (s : State),
    exec (.wrTarget l v) s = .next (s.withCtx l { s.ctx l with target := v }) ∧
    exec (.wrMeas l v) s = .next (s.withCtx l { s.ctx l with meas := v }) ∧
    exec (.wrKpSh l v) s = .next (s.withCtx l { s.ctx l with kpSh := v }) ∧
    exec (.wrKiSh l v) s = .next (s.withCtx l { s.ctx l with kiSh := v }) ∧
    exec (.wrKdSh l v) s = .next (s.withCtx l { s.ctx l with kdSh := v }) ∧
    execAll [.wrTarget l v, .rdTarget l] s =
      .next { s.withCtx l { s.ctx l with target := v } with rdata := some v } ∧
    execAll [.wrMeas l v, .rdMeas l] s =
      .next { s.withCtx l { s.ctx l with meas := v } with rdata := some v } ∧
    execAll [.wrKpSh l v, .rdKpSh l] s =
      .next { s.withCtx l { s.ctx l with kpSh := v } with rdata := some v } ∧
    execAll [.wrKiSh l v, .rdKiSh l] s =
      .next { s.withCtx l { s.ctx l with kiSh := v } with rdata := some v } ∧
    execAll [.wrKdSh l v, .rdKdSh l] s =
      .next { s.withCtx l { s.ctx l with kdSh := v } with rdata := some v }

/-- R110, R29: over the window, index `idx` of context L stands at offset 0x80 + 0x40*L + 4*idx; a 32-bit read returns
the register and changes nothing, a 32-bit write of an index 0 to 4 stores WDATA there and touches no other register;
the other accesses are illegal. That a write, legal or not, keeps RDATA is log entry 7, the model's choice. -/
def Obligations.WindowShowsTheContextRegisters : Prop :=
  ∀ (l : Loop) (idx : BitVec 4) (v : Word) (s : State) (a : Offset), s.rst = false →
    a.toNat = 0x80 + 0x40 * l.bit.toNat + 4 * idx.toNat →
    (∀ r, (s.ctx l).slot idx = some r → memRead a s = .next { s with rdata := some r }) ∧
    ((s.ctx l).slot idx = none → memRead a s = .next { s with rdata := some 0#32, busErr := true }) ∧
    (idx.toNat ≤ 4 → ∃ c, memWrite a v s = .next (s.withCtx l c) ∧ c.slot idx = some v ∧
      ∀ j, j ≠ idx → c.slot j = (s.ctx l).slot j) ∧
    (7 ≤ idx.toNat → memWrite a v s = .next { s with busErr := true })

/-- R173 and the preface of 41_pid_access.md: no admitted operation raises BusError; an operation on a context leaves
PHASE, ACC and both flags, however its results saturate; and an operation of the decoder leaves both contexts. The
last line is about the model's own fields: that an operation leaves the agents' lists and the schedule is log entry 2,
and that it leaves the level of rst is log entry 8. -/
def Obligations.AdmittedOperationsKeepTheOtherUnit : Prop :=
  ∀ (i : Instr) (s t : State), exec i s = .next t →
    (t.busErr = true → s.busErr = true) ∧
    (i.loop? ≠ none → t.phase = s.phase ∧ t.acc = s.acc ∧ t.accOvf = s.accOvf ∧ t.busErr = s.busErr) ∧
    (i.loop? = none → t.vel = s.vel ∧ t.pos = s.pos) ∧
    t.rst = s.rst ∧ t.edges = s.edges ∧ t.host = s.host ∧ t.resets = s.resets ∧ t.sched = s.sched

/-- R55: a read of a mapped offset other than 0x00 has no side effect, and read again returns the same; a write other
than of STEP, done twice, is done once. The clause that a write keeps RDATA (`t.rdata = s.rdata`) is log entry 7, the
model's choice, and not R55. -/
def Obligations.ReadsAndPlainWritesAreIdempotent : Prop :=
  (∀ (i : Instr) (a : Offset) (z : BitVec 2) (s t : State), encode i = .bus (.read a z) → a ≠ 0x00#8 →
    exec i s = .next t → t = { s with rdata := t.rdata } ∧ exec i t = .next t) ∧
  ∀ (i : Instr) (a : Offset) (z : BitVec 2) (v : Word) (s t : State), encode i = .bus (.write a z v) →
    a ≠ 0x98#8 → a ≠ 0xD8#8 → exec i s = .next t → t.rdata = s.rdata ∧ exec i t = .next t

/-- R79: what the pseudo-operations CFG, PID and CLRFLAGS leave, each from the sequence it expands to. That the writes
of a sequence keep RDATA is log entry 7, the model's choice. -/
def Obligations.PseudoOperationsDoWhatTheyName : Prop :=
  (∀ (l : Loop) (kp ki kd : Word) (s : State), execAll (Pseudo.cfg l kp ki kd).expand s = .next (s.withCtx l
    { s.ctx l with kpSh := kp, kiSh := ki, kdSh := kd, kp := kp, ki := ki, kd := kd })) ∧
  (∀ (l : Loop) (x y : Word) (s : State), ∃ t c, execAll (Pseudo.pid l x y).expand s = .next t ∧ t = s.withCtx l c ∧
    exec (.wrStep l 0#32) (s.withCtx l { s.ctx l with target := x, meas := y }) = .next t ∧
    c.target = x ∧ c.meas = y ∧ c.prevErr.toInt = satW (x.toInt - y.toInt)) ∧
  ∀ s : State, execAll Pseudo.clrFlags.expand s = .next { s with accOvf := false, busErr := false }

/-! The bus: decoding and illegal transactions. -/

/-- R70 to R74: some operations' encodings, written out from the opcode map. -/
def Obligations.EncodingsOfTheMapDecode : Prop :=
  decode (.edge 0b10#2) = .ok (.edge true false) ∧
    decode (.bus (BusTxn.ofTc 0b000000000#9 0#32)) = .ok .rdQdDrain ∧
    decode (.bus (BusTxn.ofTc 0b100000100#9 0xC#32)) = .ok (.wrQdStatus 0xC#32) ∧
    decode (.bus (BusTxn.ofTc 0b110000000#9 0xA0000#32)) = .ok (.wrTarget .velocity 0xA0000#32) ∧
    decode (.bus (BusTxn.ofTc 0b111000000#9 0xFFFF8000#32)) = .ok (.wrTarget .position 0xFFFF8000#32) ∧
    decode (.bus (BusTxn.ofTc 0b110011000#9 0#32)) = .ok (.wrStep .velocity 0#32) ∧
    decode (.bus (BusTxn.ofTc 0b111011000#9 0#32)) = .ok (.wrStep .position 0#32) ∧
    decode (.bus (BusTxn.ofTc 0b010111100#9 0#32)) = .ok (.rdOutput .velocity)

/-- R70 to R74: decoding the encoding of any operation, with any operands, gives the operation back. -/
def Obligations.DecodeOfEncodeIsIdentity : Prop :=
  ∀ i : Instr, decode (encode i) = .ok i

/-- R70 to R75: an operation that decodes to `i` is the encoding of `i`: no two encodings share a meaning, and no bit is
dropped. -/
def Obligations.EncodeOfDecodeIsIdentity : Prop :=
  ∀ (op : Operation) (i : Instr), decode op = .ok i → encode i = op

/-- R75: no two rows of the map match the same transaction code. -/
def Obligations.RowsDoNotOverlap : Prop :=
  rows.length = 24 ∧ rows.Pairwise fun r q => ∀ tc : TransCode, ¬ (r.hits tc = true ∧ q.hits tc = true)

/-- R75: which transactions are illegal, in terms of SIZE, A and W. -/
def Obligations.IllegalTransactionsAreThoseListed : Prop :=
  ∀ t : BusTxn, (∃ r, decodeBus t = .error r) ↔
    (t.size ≠ 0b10#2 ∨ t.offset.extractLsb' 0 2 ≠ 0b00#2 ∨
      (0x08 ≤ t.offset.toNat ∧ t.offset.toNat ≤ 0x7C) ∨
      (t.isWrite = true ∧ (t.offset = 0x00#8 ∨
        (0x80 ≤ t.offset.toNat ∧ 7 ≤ (t.offset.extractLsb' 2 4).toNat))) ∨
      (t.isWrite = false ∧ 0x80 ≤ t.offset.toNat ∧
        ((t.offset.extractLsb' 2 4).toNat = 5 ∨ (t.offset.extractLsb' 2 4).toNat = 6)))

/-- R172: an illegal write changes no register but BUS_ERR, an illegal read returns 0 and changes no register but
BUS_ERR; the sizes, alignments, offsets and directions it lists are illegal; a write of QD_STATUS[3] or a reset clears
the flag. R172 speaks of registers only: the clause that an illegal write leaves RDATA as it was is log entry 7, the
model's choice. -/
def Obligations.IllegalTransactionOnlySetsBusErr : Prop :=
  (∀ (t : BusTxn) (s : State), s.rst = false →
    (t.size ≠ 0b10#2 ∨ t.offset.extractLsb' 0 2 ≠ 0b00#2 ∨
      (0x08 ≤ t.offset.toNat ∧ t.offset.toNat ≤ 0x7C) ∨
      (t.isWrite = true ∧ (t.offset = 0x00#8 ∨
        (0x80 ≤ t.offset.toNat ∧ 7 ≤ (t.offset.extractLsb' 2 4).toNat))) ∨
      (t.isWrite = false ∧ 0x80 ≤ t.offset.toNat ∧
        ((t.offset.extractLsb' 2 4).toNat = 5 ∨ (t.offset.extractLsb' 2 4).toNat = 6))) →
    performOp (.bus t) s = .next { s with
      busErr := true, rdata := if t.isWrite then s.rdata else some 0#32 }) ∧
  (∀ (v : Word) (s t : State), exec (.wrQdStatus v) s = .next t → v.getLsbD 3 = true → t.busErr = false) ∧
  ∀ (a b : Bool) (s t : State), perform (.reset (.releaseRst a b)) s = .next t → t.busErr = false

/-- R53: byte lane k carries bits [8k+7:8k], and the four lanes, least significant first, make the word. -/
def Obligations.ByteLanesAreLittleEndian : Prop :=
  (∀ (w : Word) (k : Fin 4) (j : Nat), j < 8 → (byteLane w k).getLsbD j = w.getLsbD (8 * k.val + j)) ∧
    ∀ w : Word, ofByteLanes (byteLane w 0) (byteLane w 1) (byteLane w 2) (byteLane w 3) = w

/-! Reset. -/

/-- R190: while `rst` is asserted an operation is not performed: no register changes, no flag is set, a read returns
0. Two clauses are the model's choice and no part of R190: that asserting `rst` itself changes no register is log
entry 8, and that a held EDGE or write, and the assertion, keep RDATA is log entry 7. -/
def Obligations.OperationsAreHeldInReset : Prop :=
  (∀ (ab : BitVec 2) (s : State), s.rst = true → performOp (.edge ab) s = .next s) ∧
    (∀ (a : Offset) (z : BitVec 2) (s : State), s.rst = true →
      performOp (.bus (.read a z)) s = .next { s with rdata := some 0#32 }) ∧
    (∀ (a : Offset) (z : BitVec 2) (v : Word) (s : State), s.rst = true → performOp (.bus (.write a z v)) s = .next s) ∧
    ∀ s : State, perform (.reset .assertRst) s = .next { s with rst := true }

/-- R191: the release of reset sets every register, PHASE from the pins, and the block performs operations again. That
the release keeps RDATA is log entry 7, that it leaves the agents' lists and the schedule is log entry 2, and that a
release without an assertion does the same is log entry 8: the model's choices. -/
def Obligations.ReleaseSetsEveryRegister : Prop :=
  ∀ (a b : Bool) (s : State), perform (.reset (.releaseRst a b)) s = .next { s with
    phase := phaseOf a b, acc := 0#8, accOvf := false, busErr := false
    vel := ⟨0#32, 0#32, 0#32, 0#32, 0#32, 0#32, 0#32, 0#32, 0#32, 0#32, 0#32, 0#32, 0#32, 0#32⟩
    pos := ⟨0#32, 0#32, 0#32, 0#32, 0#32, 0#32, 0#32, 0#32, 0#32, 0#32, 0#32, 0#32, 0#32, 0#32⟩
    rst := false }

/-- R36: the reset values of State.reset. PHASE is the phase of some sample of the pins, and no more is said of it. -/
def Obligations.ResetStateHasTheResetValues : Prop :=
  (∃ a b, State.reset.phase = phaseOf a b) ∧ State.reset.acc = 0#8 ∧ State.reset.accOvf = false ∧
    State.reset.busErr = false ∧ State.reset.vel = Context.zero ∧ State.reset.pos = Context.zero ∧
    ∀ idx : BitVec 4, Context.zero.slot idx = none ∨ Context.zero.slot idx = some 0#32

/-- R192: the first EDGE after a release counts from the pins at the release: an unchanged sample adds no tick, any
other adds its delta. That the EDGE keeps RDATA (in `u = t`) is log entry 7, the model's choice. -/
def Obligations.FirstEdgeCountsFromTheReleasedPins : Prop :=
  ∀ (a b c d : Bool) (s t : State), perform (.reset (.releaseRst a b)) s = .next t →
    ∃ u, exec (.edge c d) t = .next u ∧ u.acc.toInt = delta (phaseOf a b) (phaseOf c d) ∧ u.accOvf = false ∧
      (c = a → d = b → u = t)

/-! The machine as a whole. -/

/-- R15, R56: a step performs the operation that the scheduled agent brings: its decoded instruction, on the state without
it; likewise for the reset input; with no agent scheduled the block idles (log entry 3). -/
def Obligations.StepPerformsTheScheduledEvent : Prop :=
  (∀ (s : State) (ab : BitVec 2) (more : List (BitVec 2)) (rest : List Agent) (i : Instr),
    s.sched = .edge :: rest → s.edges = ab :: more → s.rst = false → decode (.edge ab) = .ok i →
    step s = exec i { s with sched := rest, edges := more }) ∧
  (∀ (s : State) (t : BusTxn) (more : List BusTxn) (rest : List Agent) (i : Instr),
    s.sched = .host :: rest → s.host = t :: more → s.rst = false → decode (.bus t) = .ok i →
    step s = exec i { s with sched := rest, host := more }) ∧
  (∀ (s s' : State) (op : Operation), s.nextEvent = (some (.op op), s') → step s = performOp op s') ∧
  (∀ (s : State) (e : ResetEvent) (more : List ResetEvent) (rest : List Agent),
    s.sched = .reset :: rest → s.resets = e :: more →
    step s = perform (.reset e) { s with sched := rest, resets := more }) ∧
  ∀ s : State, s.sched = [] → step s = .next s

/-- R170: no operation traps, halts or stalls: every step, from every state, answers a next state. -/
def Obligations.EveryStepCompletes : Prop :=
  (∀ s : State, ∃ t, step s = .next t) ∧ ∀ (i : Instr) (s : State), ∃ t, exec i s = .next t

/-- R56 (a), (b): whatever the interleaving, each agent's operations are taken in that agent's own order: what is left
after any run is an end part of what there was. -/
def Obligations.AgentsKeepTheirOwnOrder : Prop :=
  ∀ (s t : State) (g h : Account), Run s g t h →
    t.edges <:+ s.edges ∧ t.host <:+ s.host ∧ t.resets <:+ s.resets ∧ t.sched <:+ s.sched

/-- R56: a sequence of events brought to a block with nothing else to come (R78: a program or test sequence, resets
included) is performed whole, in its order, one event a step. -/
def Obligations.LoadedEventsArePerformedInOrder : Prop :=
  ∀ (s : State) (evs : List Event), s.edges = [] → s.host = [] → s.resets = [] → s.sched = [] →
    Host.Core.run Sys2Proof.core evs.length (s.load evs) = performAll evs s ∧ ∃ t, performAll evs s = .next t

/-- R56, R57: in the interleaving that the schedule names, the host's next transaction comes right after the slots of
the other agents before the host's: that many steps complete, and it is then the next event. The step that takes it
performs it, or, while `rst` is high, holds it (R190). This is what the model states in place of the weak fairness of
R201, which it does not claim: log entry 11, the model's choice. -/
def Obligations.IssuedTransactionIsNextWhenScheduled : Prop :=
  ∀ (s : State) (t : BusTxn) (more : List BusTxn) (before rest : List Agent), s.host = t :: more →
    s.sched = before ++ .host :: rest → Agent.host ∉ before →
    ∃ u, Host.Core.run Sys2Proof.core before.length s = .next u ∧ u.nextEvent.1 = some (.op (.bus t))

/-- R57: an EDGE and an operation on a PID context touch nothing in common: both orders give the same state. That the
EDGE keeps RDATA is log entry 7, the model's choice. -/
def Obligations.EdgesCommuteWithPidOperations : Prop :=
  ∀ (a b : Bool) (i : Instr) (l : Loop) (s : State), i.loop? = some l →
    execAll [.edge a b, i] s = execAll [i, .edge a b] s

/-- R174: an EDGE and an illegal transaction that arrive together each raise their own condition, and the end state
does not depend on their order. That the end states agree in RDATA too rests on the EDGE keeping it: log entry 7, the
model's choice. -/
def Obligations.ConditionsDoNotDependOnOrder : Prop :=
  ∀ (ab : BitVec 2) (u : BusTxn) (r : DecodeError) (s : State), s.rst = false → decodeBus u = .error r →
    ∃ m n t, performOp (.edge ab) s = .next m ∧ performOp (.bus u) m = .next t ∧
      performOp (.bus u) s = .next n ∧ performOp (.edge ab) n = .next t ∧ t.busErr = true ∧ t.accOvf = m.accOvf

/-! Accounts of ticks, one step at a time: each law of R59 and R97 is kept by every step, from every state and account that
meet it, reached by a run or not. -/

/-- R59 (as the model reads it, log entry 5: ACC_OVF has never been 1 since reset): whatever the agents bring, a step keeps
`S + A = D`; a release of reset starts both sums afresh. -/
def Obligations.StepKeepsTickConservation : Prop :=
  ∀ (s t : State) (g : Account), g.Conserves s → step s = .next t → (g.after s t).Conserves t

/-- R59, last part: whatever the agents bring, a step keeps `S + A = D` modulo 2^ACC_WIDTH, with or without overflow. -/
def Obligations.StepKeepsTickConservationModulo : Prop :=
  ∀ (s t : State) (g : Account), g.ConservesModulo s → step s = .next t → (g.after s t).ConservesModulo t

/-- R97, first bound: whatever the agents bring, a step keeps this: if there have never been more than 63 EDGE operations
between drains, ACC_OVF is 0 and the magnitude of ACC is at most twice the EDGE operations since the latest drain. -/
def Obligations.StepKeepsDrainIntervalBound : Prop :=
  ∀ (s t : State) (g : Account), g.DrainedInTime s → step s = .next t → (g.after s t).DrainedInTime t
end

