-- ==== Sys2Proof/Laws/Decode.lean ====
section
/-! SUPPORT. What the decode procedure can answer (R75): its inversion, and the shape of what the encoder writes. -/
namespace Sys2Proof

/-! The fields of a transaction: no check and no code depends on WDATA. -/

@[simp] theorem BusTxn.tc_read (a : Offset) (z : BitVec 2) : (BusTxn.read a z).tc = 0#1 ++ a := rfl
@[simp] theorem BusTxn.tc_write (a : Offset) (z : BitVec 2) (v : Word) : (BusTxn.write a z v).tc = 1#1 ++ a := rfl
@[simp] theorem BusTxn.wdataOr0_write (a : Offset) (z : BitVec 2) (v : Word) : (BusTxn.write a z v).wdataOr0 = v := rfl
@[simp] theorem BusTxn.sized_read (a : Offset) (z : BitVec 2) : (BusTxn.read a z).sized = (z == 0b10#2) := rfl
@[simp] theorem BusTxn.sized_write (a : Offset) (z : BitVec 2) (v : Word) : (BusTxn.write a z v).sized = (z == 0b10#2) := rfl
@[simp] theorem BusTxn.aligned_read (a : Offset) (z : BitVec 2) :
    (BusTxn.read a z).aligned = (a.extractLsb' 0 2 == 0b00#2) := rfl
@[simp] theorem BusTxn.aligned_write (a : Offset) (z : BitVec 2) (v : Word) :
    (BusTxn.write a z v).aligned = (a.extractLsb' 0 2 == 0b00#2) := rfl

/-- Whether a write is well formed does not depend on its data. -/
theorem Operation.wellFormed_write (a : Offset) (z : BitVec 2) (v : Word) :
    (Operation.bus (.write a z v)).wellFormed = (Operation.bus (.read a z)).wellFormed := rfl

/-- An admitted transaction is a whole, aligned word, and its operation is that of a row its code matches (R75). -/
theorem decodeBus_ok {t : BusTxn} {i : Instr} (h : decodeBus t = .ok i) :
    t.sized = true ∧ t.aligned = true ∧ ∃ r ∈ rows, r.hits t.tc = true ∧ i = r.build (loopOf t.tc) t.wdataOr0 := by
  unfold decodeBus at h
  split at h
  · cases h
  · cases h
  · next hz ha =>
    split at h
    · next r hf =>
      injection h with h
      exact ⟨hz, ha, r, List.mem_of_find?_eq_some hf, List.find?_some (p := fun r : Row => r.hits t.tc) hf, h.symm⟩
    · cases h

/-- An illegal transaction is of a wrong size, misaligned, or matches no row (R75). -/
theorem decodeBus_error {t : BusTxn} {e : DecodeError} (h : decodeBus t = .error e) :
    t.sized = false ∨ t.aligned = false ∨ ∀ r ∈ rows, r.hits t.tc = false := by
  unfold decodeBus at h
  split at h
  · next hz => exact .inl hz
  · next ha => exact .inr (.inl ha)
  · split at h
    · cases h
    · next hf => exact .inr (.inr fun r hr => by simpa using List.find?_eq_none.mp hf r hr)

/-- An admitted transaction, from its checks and the row that its code finds. -/
theorem decodeBus_of_find {t : BusTxn} {r : Row} (hz : t.sized = true) (ha : t.aligned = true)
    (hf : rows.find? (·.hits t.tc) = some r) : decodeBus t = .ok (r.build (loopOf t.tc) t.wdataOr0) := by
  simp [decodeBus, hz, ha, hf]

/-- Whether a write is admitted does not depend on its data. -/
theorem decodeBus_write_isOk (a : Offset) (z : BitVec 2) (v w : Word) :
    (∃ i, decodeBus (.write a z v) = .ok i) ↔ (∃ i, decodeBus (.write a z w) = .ok i) := by
  unfold decodeBus
  simp only [BusTxn.sized_write, BusTxn.aligned_write, BusTxn.tc_write]
  generalize (z == 0b10#2) = p, (a.extractLsb' 0 2 == 0b00#2) = q, rows.find? (·.hits (1#1 ++ a)) = f
  cases p <;> cases q <;> cases f <;> simp

end Sys2Proof
end

