-- ==== Sys2Proof/Laws/Fixed.lean ====
section
/-! SUPPORT. What the width functions of R12 and the deltas of R91 can answer: bounds and exact values. -/
namespace Sys2Proof.Machine

theorem clamp_bounds {v lo hi : Int} (h : lo ≤ hi) : lo ≤ clamp v lo hi ∧ clamp v lo hi ≤ hi := by
  unfold clamp; omega

theorem clamp_of_mem {v lo hi : Int} (h₁ : lo ≤ v) (h₂ : v ≤ hi) : clamp v lo hi = v := by
  unfold clamp; omega

theorem clamp_of_le {v lo hi : Int} (h₁ : v ≤ lo) (h₂ : lo ≤ hi) : clamp v lo hi = lo := by
  unfold clamp; omega

theorem clamp_of_ge {v lo hi : Int} (h : hi ≤ v) : clamp v lo hi = hi := by
  unfold clamp; omega

theorem sMin_32 : sMin 32 = -2147483648 := by decide
theorem sMax_32 : sMax 32 = 2147483647 := by decide
theorem sMin_8 : sMin 8 = -128 := by decide
theorem sMax_8 : sMax 8 = 127 := by decide
theorem ilim_eq : Config.ilim = 65536000 := by decide

/-- A 32-bit vector made from an integer in range has that integer as its value. -/
theorem toInt_ofInt_32 {v : Int} (h₁ : -2147483648 ≤ v) (h₂ : v ≤ 2147483647) : (BitVec.ofInt 32 v).toInt = v := by
  rw [BitVec.toInt_ofInt, Int.bmod_def]; omega

/-- The same for the accumulator's 8 bits. -/
theorem toInt_ofInt_8 {v : Int} (h₁ : -128 ≤ v) (h₂ : v ≤ 127) : (BitVec.ofInt 8 v).toInt = v := by
  rw [BitVec.toInt_ofInt, Int.bmod_def]; omega

theorem word_toInt_bounds (x : Word) : -2147483648 ≤ x.toInt ∧ x.toInt ≤ 2147483647 := by
  have h₁ := BitVec.le_toInt x
  have h₂ := BitVec.toInt_lt (x := x)
  constructor <;> omega

theorem acc_toInt_bounds (x : Acc) : -128 ≤ x.toInt ∧ x.toInt ≤ 127 := by
  have h₁ := BitVec.le_toInt x
  have h₂ := BitVec.toInt_lt (x := x)
  constructor <;> omega

/-- `sat_32` as a value (R12). -/
theorem sat_32_toInt (v : Int) : (sat 32 v).toInt = clamp v (-2147483648) 2147483647 := by
  have h := clamp_bounds (v := v) (lo := -2147483648) (hi := 2147483647) (by omega)
  unfold sat
  rw [sMin_32, sMax_32]
  exact toInt_ofInt_32 h.1 h.2

/-- The clamped integral lies within its limits (R143). -/
theorem integNext_bounds (i e : Word) : -Config.ilim ≤ integNext i e ∧ integNext i e ≤ Config.ilim :=
  clamp_bounds (by rw [ilim_eq]; omega)

/-- The limits of the integral fit a word, so the register holds the clamped integral exactly (R8, R143). -/
theorem wrap_integNext_toInt (i e : Word) : (wrap 32 (integNext i e)).toInt = integNext i e := by
  have h := integNext_bounds i e
  rw [ilim_eq] at h
  exact toInt_ofInt_32 (by omega) (by omega)

/-- Every delta lies in -2..+2 (R91). -/
theorem delta_bounds (old new : Phase) : -2 ≤ delta old new ∧ delta old new ≤ 2 := by
  revert old new; decide

theorem delta_self (p : Phase) : delta p p = 0 := by
  revert p; decide

/-- When AccOverflow is raised, in numbers (R171). -/
theorem accOverflows_iff (n : Int) : accOverflows n = true ↔ n < -128 ∨ 127 < n := by
  simp [accOverflows, sMin_8, sMax_8]

/-- Without overflow ACC holds the sum exactly (R92). -/
theorem wrap_8_toInt_of_not_overflows {n : Int} (h : accOverflows n = false) : (wrap 8 n).toInt = n := by
  have h' : ¬ (n < -128 ∨ 127 < n) := by rw [← accOverflows_iff, h]; decide
  exact toInt_ofInt_8 (by omega) (by omega)

/-- In every case ACC holds the sum modulo 2^ACC_WIDTH (R12). -/
theorem wrap_8_toInt_mod (n : Int) : ((wrap 8 n).toInt - n) % 256 = 0 := by
  unfold wrap
  rw [BitVec.toInt_ofInt, Int.bmod_def]; omega

end Sys2Proof.Machine
end

