-- ==== Sys2Proof/Laws/State.lean ====
section
/-! SUPPORT. One lemma per field per update of State, so that no proof unfolds a record update. -/
namespace Sys2Proof.Machine

variable (s : State)

/-! The data of a read. -/

@[simp] theorem State.respond_phase (v : Word) : (s.respond v).phase = s.phase := rfl
@[simp] theorem State.respond_acc (v : Word) : (s.respond v).acc = s.acc := rfl
@[simp] theorem State.respond_accOvf (v : Word) : (s.respond v).accOvf = s.accOvf := rfl
@[simp] theorem State.respond_busErr (v : Word) : (s.respond v).busErr = s.busErr := rfl
@[simp] theorem State.respond_vel (v : Word) : (s.respond v).vel = s.vel := rfl
@[simp] theorem State.respond_pos (v : Word) : (s.respond v).pos = s.pos := rfl
@[simp] theorem State.respond_rst (v : Word) : (s.respond v).rst = s.rst := rfl
@[simp] theorem State.respond_rdata (v : Word) : (s.respond v).rdata = some v := rfl
@[simp] theorem State.respond_edges (v : Word) : (s.respond v).edges = s.edges := rfl
@[simp] theorem State.respond_host (v : Word) : (s.respond v).host = s.host := rfl
@[simp] theorem State.respond_resets (v : Word) : (s.respond v).resets = s.resets := rfl
@[simp] theorem State.respond_sched (v : Word) : (s.respond v).sched = s.sched := rfl

/-! AccOverflow. -/

@[simp] theorem State.raiseAccOverflow_phase : (s.raise .accOverflow).phase = s.phase := rfl
@[simp] theorem State.raiseAccOverflow_acc : (s.raise .accOverflow).acc = s.acc := rfl
@[simp] theorem State.raiseAccOverflow_accOvf : (s.raise .accOverflow).accOvf = true := rfl
@[simp] theorem State.raiseAccOverflow_busErr : (s.raise .accOverflow).busErr = s.busErr := rfl
@[simp] theorem State.raiseAccOverflow_vel : (s.raise .accOverflow).vel = s.vel := rfl
@[simp] theorem State.raiseAccOverflow_pos : (s.raise .accOverflow).pos = s.pos := rfl
@[simp] theorem State.raiseAccOverflow_rst : (s.raise .accOverflow).rst = s.rst := rfl
@[simp] theorem State.raiseAccOverflow_rdata : (s.raise .accOverflow).rdata = s.rdata := rfl
@[simp] theorem State.raiseAccOverflow_edges : (s.raise .accOverflow).edges = s.edges := rfl
@[simp] theorem State.raiseAccOverflow_host : (s.raise .accOverflow).host = s.host := rfl
@[simp] theorem State.raiseAccOverflow_resets : (s.raise .accOverflow).resets = s.resets := rfl
@[simp] theorem State.raiseAccOverflow_sched : (s.raise .accOverflow).sched = s.sched := rfl

/-! BusError. -/

@[simp] theorem State.raiseBusError_phase : (s.raise .busError).phase = s.phase := rfl
@[simp] theorem State.raiseBusError_acc : (s.raise .busError).acc = s.acc := rfl
@[simp] theorem State.raiseBusError_accOvf : (s.raise .busError).accOvf = s.accOvf := rfl
@[simp] theorem State.raiseBusError_busErr : (s.raise .busError).busErr = true := rfl
@[simp] theorem State.raiseBusError_vel : (s.raise .busError).vel = s.vel := rfl
@[simp] theorem State.raiseBusError_pos : (s.raise .busError).pos = s.pos := rfl
@[simp] theorem State.raiseBusError_rst : (s.raise .busError).rst = s.rst := rfl
@[simp] theorem State.raiseBusError_rdata : (s.raise .busError).rdata = s.rdata := rfl
@[simp] theorem State.raiseBusError_edges : (s.raise .busError).edges = s.edges := rfl
@[simp] theorem State.raiseBusError_host : (s.raise .busError).host = s.host := rfl
@[simp] theorem State.raiseBusError_resets : (s.raise .busError).resets = s.resets := rfl
@[simp] theorem State.raiseBusError_sched : (s.raise .busError).sched = s.sched := rfl

/-! The release of reset. -/

@[simp] theorem State.release_phase (a b : Bool) : (s.release a b).phase = phaseOf a b := rfl
@[simp] theorem State.release_acc (a b : Bool) : (s.release a b).acc = 0 := rfl
@[simp] theorem State.release_accOvf (a b : Bool) : (s.release a b).accOvf = false := rfl
@[simp] theorem State.release_busErr (a b : Bool) : (s.release a b).busErr = false := rfl
@[simp] theorem State.release_vel (a b : Bool) : (s.release a b).vel = Context.zero := rfl
@[simp] theorem State.release_pos (a b : Bool) : (s.release a b).pos = Context.zero := rfl
@[simp] theorem State.release_rst (a b : Bool) : (s.release a b).rst = false := rfl
@[simp] theorem State.release_rdata (a b : Bool) : (s.release a b).rdata = s.rdata := rfl
@[simp] theorem State.release_edges (a b : Bool) : (s.release a b).edges = s.edges := rfl
@[simp] theorem State.release_host (a b : Bool) : (s.release a b).host = s.host := rfl
@[simp] theorem State.release_resets (a b : Bool) : (s.release a b).resets = s.resets := rfl
@[simp] theorem State.release_sched (a b : Bool) : (s.release a b).sched = s.sched := rfl

/-! A context is replaced. -/

@[simp] theorem State.withCtx_phase (l : Loop) (c : Context) : (s.withCtx l c).phase = s.phase := by cases l <;> rfl
@[simp] theorem State.withCtx_acc (l : Loop) (c : Context) : (s.withCtx l c).acc = s.acc := by cases l <;> rfl
@[simp] theorem State.withCtx_accOvf (l : Loop) (c : Context) : (s.withCtx l c).accOvf = s.accOvf := by cases l <;> rfl
@[simp] theorem State.withCtx_busErr (l : Loop) (c : Context) : (s.withCtx l c).busErr = s.busErr := by cases l <;> rfl
@[simp] theorem State.withCtx_rst (l : Loop) (c : Context) : (s.withCtx l c).rst = s.rst := by cases l <;> rfl
@[simp] theorem State.withCtx_rdata (l : Loop) (c : Context) : (s.withCtx l c).rdata = s.rdata := by cases l <;> rfl
@[simp] theorem State.withCtx_edges (l : Loop) (c : Context) : (s.withCtx l c).edges = s.edges := by cases l <;> rfl
@[simp] theorem State.withCtx_host (l : Loop) (c : Context) : (s.withCtx l c).host = s.host := by cases l <;> rfl
@[simp] theorem State.withCtx_resets (l : Loop) (c : Context) : (s.withCtx l c).resets = s.resets := by cases l <;> rfl
@[simp] theorem State.withCtx_sched (l : Loop) (c : Context) : (s.withCtx l c).sched = s.sched := by cases l <;> rfl
@[simp] theorem State.withCtx_velocity_vel (c : Context) : (s.withCtx .velocity c).vel = c := rfl
@[simp] theorem State.withCtx_velocity_pos (c : Context) : (s.withCtx .velocity c).pos = s.pos := rfl
@[simp] theorem State.withCtx_position_vel (c : Context) : (s.withCtx .position c).vel = s.vel := rfl
@[simp] theorem State.withCtx_position_pos (c : Context) : (s.withCtx .position c).pos = c := rfl

@[simp] theorem State.ctx_withCtx_same (l : Loop) (c : Context) : (s.withCtx l c).ctx l = c := by cases l <;> rfl
@[simp] theorem State.ctx_withCtx_other {l m : Loop} (h : m ≠ l) (c : Context) : (s.withCtx l c).ctx m = s.ctx m := by
  cases l <;> cases m <;> first | rfl | exact absurd rfl h
@[simp] theorem State.withCtx_withCtx_same (l : Loop) (c d : Context) : (s.withCtx l c).withCtx l d = s.withCtx l d := by
  cases l <;> rfl
@[simp] theorem State.withCtx_ctx (l : Loop) : s.withCtx l (s.ctx l) = s := by cases l <;> rfl
@[simp] theorem State.ctx_velocity : s.ctx .velocity = s.vel := rfl
@[simp] theorem State.ctx_position : s.ctx .position = s.pos := rfl
@[simp] theorem State.ctx_respond (v : Word) (l : Loop) : (s.respond v).ctx l = s.ctx l := by cases l <;> rfl
@[simp] theorem State.ctx_release (a b : Bool) (l : Loop) : (s.release a b).ctx l = Context.zero := by cases l <;> rfl

/-! The note an EDGE makes of an overflow. -/

@[simp] theorem State.noteOverflow_phase (n : Int) : (s.noteOverflow n).phase = s.phase := rfl
@[simp] theorem State.noteOverflow_acc (n : Int) : (s.noteOverflow n).acc = s.acc := rfl
/-- The pseudocode's form: `raise AccOverflow` when the sum leaves the range, else nothing (R92, R14). -/
theorem State.noteOverflow_eq_raise (n : Int) :
    s.noteOverflow n = if accOverflows n = true then s.raise .accOverflow else s := by
  unfold noteOverflow; cases h : accOverflows n <;> simp [raise]

@[simp] theorem State.noteOverflow_accOvf (n : Int) : (s.noteOverflow n).accOvf = (s.accOvf || accOverflows n) := rfl
@[simp] theorem State.noteOverflow_busErr (n : Int) : (s.noteOverflow n).busErr = s.busErr := rfl
@[simp] theorem State.noteOverflow_vel (n : Int) : (s.noteOverflow n).vel = s.vel := rfl
@[simp] theorem State.noteOverflow_pos (n : Int) : (s.noteOverflow n).pos = s.pos := rfl
@[simp] theorem State.noteOverflow_rst (n : Int) : (s.noteOverflow n).rst = s.rst := rfl
@[simp] theorem State.noteOverflow_rdata (n : Int) : (s.noteOverflow n).rdata = s.rdata := rfl
@[simp] theorem State.noteOverflow_edges (n : Int) : (s.noteOverflow n).edges = s.edges := rfl
@[simp] theorem State.noteOverflow_host (n : Int) : (s.noteOverflow n).host = s.host := rfl
@[simp] theorem State.noteOverflow_resets (n : Int) : (s.noteOverflow n).resets = s.resets := rfl
@[simp] theorem State.noteOverflow_sched (n : Int) : (s.noteOverflow n).sched = s.sched := rfl

/-! What is kept of the state when an event is taken: everything the block holds. -/

@[simp] theorem State.nextEvent_phase : (s.nextEvent).2.phase = s.phase := by
  unfold nextEvent; repeat' split
  all_goals rfl
@[simp] theorem State.nextEvent_acc : (s.nextEvent).2.acc = s.acc := by
  unfold nextEvent; repeat' split
  all_goals rfl
@[simp] theorem State.nextEvent_accOvf : (s.nextEvent).2.accOvf = s.accOvf := by
  unfold nextEvent; repeat' split
  all_goals rfl
@[simp] theorem State.nextEvent_busErr : (s.nextEvent).2.busErr = s.busErr := by
  unfold nextEvent; repeat' split
  all_goals rfl
@[simp] theorem State.nextEvent_vel : (s.nextEvent).2.vel = s.vel := by
  unfold nextEvent; repeat' split
  all_goals rfl
@[simp] theorem State.nextEvent_pos : (s.nextEvent).2.pos = s.pos := by
  unfold nextEvent; repeat' split
  all_goals rfl
@[simp] theorem State.nextEvent_rst : (s.nextEvent).2.rst = s.rst := by
  unfold nextEvent; repeat' split
  all_goals rfl
@[simp] theorem State.nextEvent_rdata : (s.nextEvent).2.rdata = s.rdata := by
  unfold nextEvent; repeat' split
  all_goals rfl
@[simp] theorem State.nextEvent_ctx (l : Loop) : (s.nextEvent).2.ctx l = s.ctx l := by cases l <;> simp [State.ctx]

/-! An illegal transaction, and an operation while reset is asserted. -/

@[simp] theorem State.illegal_busErr (t : BusTxn) : (s.illegal t).busErr = true := by cases t <;> rfl
@[simp] theorem State.illegal_ctx (t : BusTxn) (l : Loop) : (s.illegal t).ctx l = s.ctx l := by cases t <;> cases l <;> rfl

@[simp] theorem State.illegal_phase (t : BusTxn) : (s.illegal t).phase = s.phase := by cases t <;> rfl
@[simp] theorem State.illegal_acc (t : BusTxn) : (s.illegal t).acc = s.acc := by cases t <;> rfl
@[simp] theorem State.illegal_accOvf (t : BusTxn) : (s.illegal t).accOvf = s.accOvf := by cases t <;> rfl
@[simp] theorem State.illegal_vel (t : BusTxn) : (s.illegal t).vel = s.vel := by cases t <;> rfl
@[simp] theorem State.illegal_pos (t : BusTxn) : (s.illegal t).pos = s.pos := by cases t <;> rfl
@[simp] theorem State.illegal_rst (t : BusTxn) : (s.illegal t).rst = s.rst := by cases t <;> rfl
@[simp] theorem State.illegal_edges (t : BusTxn) : (s.illegal t).edges = s.edges := by cases t <;> rfl
@[simp] theorem State.illegal_host (t : BusTxn) : (s.illegal t).host = s.host := by cases t <;> rfl
@[simp] theorem State.illegal_resets (t : BusTxn) : (s.illegal t).resets = s.resets := by cases t <;> rfl
@[simp] theorem State.illegal_sched (t : BusTxn) : (s.illegal t).sched = s.sched := by cases t <;> rfl
@[simp] theorem State.heldInReset_phase (op : Operation) : (s.heldInReset op).phase = s.phase := by
  unfold heldInReset; split <;> rfl
@[simp] theorem State.heldInReset_acc (op : Operation) : (s.heldInReset op).acc = s.acc := by
  unfold heldInReset; split <;> rfl
@[simp] theorem State.heldInReset_accOvf (op : Operation) : (s.heldInReset op).accOvf = s.accOvf := by
  unfold heldInReset; split <;> rfl
@[simp] theorem State.heldInReset_busErr (op : Operation) : (s.heldInReset op).busErr = s.busErr := by
  unfold heldInReset; split <;> rfl
@[simp] theorem State.heldInReset_vel (op : Operation) : (s.heldInReset op).vel = s.vel := by
  unfold heldInReset; split <;> rfl
@[simp] theorem State.heldInReset_pos (op : Operation) : (s.heldInReset op).pos = s.pos := by
  unfold heldInReset; split <;> rfl
@[simp] theorem State.heldInReset_rst (op : Operation) : (s.heldInReset op).rst = s.rst := by
  unfold heldInReset; split <;> rfl
@[simp] theorem State.heldInReset_edges (op : Operation) : (s.heldInReset op).edges = s.edges := by
  unfold heldInReset; split <;> rfl
@[simp] theorem State.heldInReset_host (op : Operation) : (s.heldInReset op).host = s.host := by
  unfold heldInReset; split <;> rfl
@[simp] theorem State.heldInReset_resets (op : Operation) : (s.heldInReset op).resets = s.resets := by
  unfold heldInReset; split <;> rfl
@[simp] theorem State.heldInReset_sched (op : Operation) : (s.heldInReset op).sched = s.sched := by
  unfold heldInReset; split <;> rfl

end Sys2Proof.Machine
end

