-- ==== Sys2Proof/Laws/Ops.lean ====
section
/-! SUPPORT. What one operation, one event and one step can do, said once: later proofs cite these inversions. -/
namespace Sys2Proof.Machine

/-- Everything a meaning can do: an EDGE, a drain, a clearing of flags, a read that only returns data, or a change of the
one context that the operation names. -/
theorem exec_next_cases {i : Instr} {s t : State} (h : exec i s = .next t) :
    (∃ a b, i = .edge a b ∧ t = { s.noteOverflow (s.edgeSum (phaseOf a b)) with
        acc := wrap 8 (s.edgeSum (phaseOf a b)), phase := phaseOf a b }) ∨
    (i = .rdQdDrain ∧ t = { s.respond s.drainData with acc := 0 }) ∨
    (∃ v, i = .wrQdStatus v ∧ t = { s with
        accOvf := afterW1C s.accOvf (v.getLsbD 2), busErr := afterW1C s.busErr (v.getLsbD 3) }) ∨
    (∃ v a, encode i = .bus (.read a 0b10#2) ∧ i ≠ .rdQdDrain ∧ t = s.respond v) ∨
    (∃ l c, i.loop? = some l ∧ t = s.withCtx l c ∧
      ((∃ v, i = .wrStep l v ∧ c = (s.ctx l).step) ∨ (∃ v, i = .wrCfgCommit l v ∧ c = (s.ctx l).commit) ∨
        (∃ tgt m p q d, c = { s.ctx l with target := tgt, meas := m, kpSh := p, kiSh := q, kdSh := d }))) := by
  cases i <;> simp only [exec] at h <;> cases h
  case edge a b => exact .inl ⟨a, b, rfl, rfl⟩
  case rdQdDrain => exact .inr (.inl ⟨rfl, rfl⟩)
  case wrQdStatus v => exact .inr (.inr (.inl ⟨v, rfl, rfl⟩))
  case wrStep l v => exact .inr (.inr (.inr (.inr ⟨l, _, rfl, rfl, .inl ⟨v, rfl, rfl⟩⟩)))
  case wrCfgCommit l v => exact .inr (.inr (.inr (.inr ⟨l, _, rfl, rfl, .inr (.inl ⟨v, rfl, rfl⟩)⟩)))
  all_goals first
    | exact .inr (.inr (.inr (.inl ⟨_, _, rfl, by simp, rfl⟩)))
    | exact .inr (.inr (.inr (.inr ⟨_, _, rfl, rfl, .inr (.inr ⟨_, _, _, _, _, rfl⟩)⟩)))

/-- Everything an event can do: the reset input changes, an operation is held in reset, an admitted operation is
executed, or a transaction is illegal. -/
theorem perform_next_cases {ev : Event} {s t : State} (h : perform ev s = .next t) :
    (∃ e, ev = .reset e ∧ t = s.applyReset e) ∨
    (∃ op, ev = .op op ∧ s.rst = true ∧ t = s.heldInReset op) ∨
    (∃ op i, ev = .op op ∧ s.rst = false ∧ decode op = .ok i ∧ exec i s = .next t) ∨
    (∃ u r, ev = .op (.bus u) ∧ s.rst = false ∧ decode (.bus u) = .error r ∧ t = s.illegal u) := by
  cases ev with
  | reset e => cases h; exact .inl ⟨e, rfl, rfl⟩
  | op o =>
    simp only [perform, performOp] at h
    cases hr : s.rst with
    | true => rw [hr] at h; cases h; exact .inr (.inl ⟨o, rfl, rfl, rfl⟩)
    | false =>
      rw [hr] at h
      cases o with
      | edge ab => exact .inr (.inr (.inl ⟨_, decodeEdge ab, rfl, rfl, rfl, h⟩))
      | bus u =>
        cases hd : decodeBus u with
        | ok i => simp only [hd] at h; exact .inr (.inr (.inl ⟨_, i, rfl, rfl, hd, h⟩))
        | error r => simp only [hd] at h; cases h; exact .inr (.inr (.inr ⟨u, r, rfl, rfl, hd, rfl⟩))

/-- A step performs the next event on the state without it, or passes when there is none. -/
theorem step_next_cases {s t : State} (h : step s = .next t) :
    (s.nextEvent.1 = none ∧ t = s.nextEvent.2) ∨
    (∃ ev, s.nextEvent.1 = some ev ∧ perform ev s.nextEvent.2 = .next t) := by
  unfold step at h
  split at h
  · next s' he => cases h; exact .inl ⟨by rw [he], by rw [he]⟩
  · next ev s' he => exact .inr ⟨ev, by rw [he], by rw [he]; exact h⟩

/-- An admitted operation is executed when reset is not asserted. -/
theorem performOp_of_decode {op : Operation} {i : Instr} {s : State} (hr : s.rst = false) (hd : decode op = .ok i) :
    performOp op s = exec i s := by
  cases op with
  | edge ab => cases hd; simp [performOp, hr]
  | bus t => simp [performOp, hr, show decodeBus t = .ok i from hd]

/-- An illegal transaction is handled by R172 when reset is not asserted. -/
theorem performOp_of_illegal {t : BusTxn} {r : DecodeError} {s : State} (hr : s.rst = false)
    (hd : decodeBus t = .error r) : performOp (.bus t) s = .next (s.illegal t) := by
  simp [performOp, hr, hd]

/-- What the reset input changes: its own level, or every register. -/
theorem State.applyReset_cases (s : State) (e : ResetEvent) :
    (e = .assertRst ∧ s.applyReset e = { s with rst := true }) ∨
    (∃ a b, e = .releaseRst a b ∧ s.applyReset e = s.release a b) := by
  cases e with
  | assertRst => exact .inl ⟨rfl, rfl⟩
  | releaseRst a b => exact .inr ⟨a, b, rfl, rfl⟩

end Sys2Proof.Machine
end

