-- ==== Sys2Proof/Laws/PerInstr.lean ====
section
/-! SUPPORT. A statement about every operation, one lemma per constructor. Family Admitted: the encoder writes a
transaction of a shape the window admits, SIZE = 0b10 and A[1:0] = 0b00 (R71, R72). -/
namespace Sys2Proof.Laws.Admitted

/-- The encoding of the operation is well formed (R51, R52, R70). -/
def Statement (i : Instr) : Prop := (encode i).wellFormed = true

theorem edge (a b : Bool) : Statement (.edge a b) := rfl
theorem rdQdDrain : Statement (.rdQdDrain) := rfl
theorem rdQdStatus : Statement (.rdQdStatus) := rfl
theorem wrQdStatus (wdata : Word) : Statement (.wrQdStatus wdata) :=
  (Operation.wellFormed_write _ _ wdata).trans (by decide)
theorem rdTarget (l : Loop) : Statement (.rdTarget l) := by cases l <;> rfl
theorem wrTarget (l : Loop) (wdata : Word) : Statement (.wrTarget l wdata) := by
  cases l <;> exact (Operation.wellFormed_write _ _ wdata).trans (by decide)
theorem rdMeas (l : Loop) : Statement (.rdMeas l) := by cases l <;> rfl
theorem wrMeas (l : Loop) (wdata : Word) : Statement (.wrMeas l wdata) := by
  cases l <;> exact (Operation.wellFormed_write _ _ wdata).trans (by decide)
theorem rdKpSh (l : Loop) : Statement (.rdKpSh l) := by cases l <;> rfl
theorem wrKpSh (l : Loop) (wdata : Word) : Statement (.wrKpSh l wdata) := by
  cases l <;> exact (Operation.wellFormed_write _ _ wdata).trans (by decide)
theorem rdKiSh (l : Loop) : Statement (.rdKiSh l) := by cases l <;> rfl
theorem wrKiSh (l : Loop) (wdata : Word) : Statement (.wrKiSh l wdata) := by
  cases l <;> exact (Operation.wellFormed_write _ _ wdata).trans (by decide)
theorem rdKdSh (l : Loop) : Statement (.rdKdSh l) := by cases l <;> rfl
theorem wrKdSh (l : Loop) (wdata : Word) : Statement (.wrKdSh l wdata) := by
  cases l <;> exact (Operation.wellFormed_write _ _ wdata).trans (by decide)
theorem wrCfgCommit (l : Loop) (wdata : Word) : Statement (.wrCfgCommit l wdata) := by
  cases l <;> exact (Operation.wellFormed_write _ _ wdata).trans (by decide)
theorem wrStep (l : Loop) (wdata : Word) : Statement (.wrStep l wdata) := by
  cases l <;> exact (Operation.wellFormed_write _ _ wdata).trans (by decide)
theorem rdKp (l : Loop) : Statement (.rdKp l) := by cases l <;> rfl
theorem rdKi (l : Loop) : Statement (.rdKi l) := by cases l <;> rfl
theorem rdKd (l : Loop) : Statement (.rdKd l) := by cases l <;> rfl
theorem rdInteg (l : Loop) : Statement (.rdInteg l) := by cases l <;> rfl
theorem rdPrevErr (l : Loop) : Statement (.rdPrevErr l) := by cases l <;> rfl
theorem rdPTerm (l : Loop) : Statement (.rdPTerm l) := by cases l <;> rfl
theorem rdITerm (l : Loop) : Statement (.rdITerm l) := by cases l <;> rfl
theorem rdDTerm (l : Loop) : Statement (.rdDTerm l) := by cases l <;> rfl
theorem rdOutput (l : Loop) : Statement (.rdOutput l) := by cases l <;> rfl

end Sys2Proof.Laws.Admitted
end

