-- ==== Sys2Proof/Laws/Steps.lean ====
section
/-! SUPPORT. What a step can do, with the operation it performs named (State.nextInstr), and what it does to the
accounts of ticks. -/
namespace Sys2Proof.Machine

/-- A step passes, changes the reset input, holds an operation in reset, executes the admitted operation
`s.nextInstr`, or handles an illegal transaction. -/
theorem step_cases {s t : State} (h : step s = .next t) :
    (s.nextInstr = none ∧ s.nextEvent.1 = none ∧ t = s.nextEvent.2) ∨
    (∃ e, s.nextInstr = none ∧ s.nextEvent.1 = some (.reset e) ∧ t = s.nextEvent.2.applyReset e) ∨
    (∃ op, s.nextInstr = none ∧ s.nextEvent.1 = some (.op op) ∧ s.rst = true ∧ t = s.nextEvent.2.heldInReset op) ∨
    (∃ op i, s.nextInstr = some i ∧ s.nextEvent.1 = some (.op op) ∧ s.rst = false ∧ decode op = .ok i ∧
      exec i s.nextEvent.2 = .next t) ∨
    (∃ u r, s.nextInstr = none ∧ s.nextEvent.1 = some (.op (.bus u)) ∧ s.rst = false ∧ decodeBus u = .error r ∧
      t = s.nextEvent.2.illegal u) := by
  obtain ⟨h₁, h₂⟩ | ⟨ev, h₁, h₂⟩ := step_next_cases h
  · exact .inl ⟨by simp [State.nextInstr, h₁], h₁, h₂⟩
  · obtain ⟨e, rfl, h₃⟩ | ⟨op, rfl, h₃, h₄⟩ | ⟨op, i, rfl, h₃, h₄, h₅⟩ | ⟨u, r, rfl, h₃, h₄, h₅⟩ :=
      perform_next_cases h₂
    · exact .inr (.inl ⟨e, by simp [State.nextInstr, h₁], h₁, h₃⟩)
    all_goals rw [State.nextEvent_rst] at h₃
    · exact .inr (.inr (.inl ⟨op, by simp [State.nextInstr, h₁, h₃], h₁, h₃, h₄⟩))
    · exact .inr (.inr (.inr (.inl ⟨op, i, by simp [State.nextInstr, h₁, h₃, h₄], h₁, h₃, h₄, h₅⟩)))
    · exact .inr (.inr (.inr (.inr ⟨u, r, by simp [State.nextInstr, h₁, h₃, h₄], h₁, h₃, h₄, h₅⟩)))

/-- What a step does to the accounts, ACC and ACC_OVF: a release of reset starts all of them afresh, an EDGE counts its
delta, a drain moves ACC to what was drained, and any other step keeps the sums and ACC and does not set ACC_OVF. -/
theorem account_step_cases {s t : State} {g : Account} (h : step s = .next t) :
    (g.after s t = Account.zero ∧ t.acc = 0 ∧ t.accOvf = false) ∨
    (∃ a b, g.after s t = { g with
        counted := g.counted + delta s.phase (phaseOf a b), sawOvf := g.sawOvf || t.accOvf
        gap := g.gap + 1, maxGap := max g.maxGap (g.gap + 1) } ∧
      t.acc = wrap 8 (s.edgeSum (phaseOf a b)) ∧ t.accOvf = (s.accOvf || accOverflows (s.edgeSum (phaseOf a b)))) ∨
    (g.after s t = { g with drained := g.drained + s.acc.toInt, sawOvf := g.sawOvf || t.accOvf, gap := 0 } ∧
      t.acc = 0 ∧ t.accOvf = s.accOvf) ∨
    (g.after s t = { g with sawOvf := g.sawOvf || t.accOvf } ∧ t.acc = s.acc ∧ (t.accOvf = true → s.accOvf = true)) := by
  rcases step_cases h with ⟨n, e, rfl⟩ | ⟨e, n, he, rfl⟩ | ⟨op, n, he, hr, rfl⟩ | ⟨op, i, n, he, hr, hd, hx⟩ |
    ⟨u, r, n, he, hr, hd, rfl⟩
  · exact .inr (.inr (.inr ⟨by simp [Account.after, n, e], by simp, by simp⟩))
  · rcases s.nextEvent.2.applyReset_cases e with ⟨rfl, h₂⟩ | ⟨a, b, rfl, h₂⟩ <;> rw [h₂]
    · exact .inr (.inr (.inr ⟨by simp [Account.after, n, he], by simp, by simp⟩))
    · exact .inl ⟨by simp [Account.after, n, he], by simp, by simp⟩
  · exact .inr (.inr (.inr ⟨by simp [Account.after, n, he], by simp, by simp⟩))
  · rcases exec_next_cases hx with ⟨a, b, rfl, rfl⟩ | ⟨rfl, rfl⟩ | ⟨v, rfl, rfl⟩ | ⟨v, a, hv, hne, rfl⟩ | ⟨l, c, hl, rfl, _⟩
    · exact .inr (.inl ⟨a, b, by simp [Account.after, n, he], by simp [State.edgeSum], by simp [State.edgeSum]⟩)
    · exact .inr (.inr (.inl ⟨by simp [Account.after, n, he, State.returned, State.drainData,
        BitVec.toInt_signExtend_of_le], rfl, by simp⟩))
    · exact .inr (.inr (.inr ⟨by simp [Account.after, n, he], by simp, by simp [afterW1C]⟩))
    · refine .inr (.inr (.inr ⟨?_, by simp, by simp⟩))
      unfold Account.after; rw [he, n]; split <;> simp_all [encode]
    · refine .inr (.inr (.inr ⟨?_, by simp, by simp⟩))
      unfold Account.after; rw [he, n]; split <;> simp_all [Instr.loop?]
  · exact .inr (.inr (.inr ⟨by simp [Account.after, n, he], by simp, by simp⟩))

end Sys2Proof.Machine
end

