-- ==== Sys2Proof/Tests/Slice0.lean ====
section
/-! SUPPORT. The model's own tests: small facts about one step, with results taken from the vectors of 95_test_vectors.md or
from the encodings of 30_encoding.md, and the witnesses of the obligations' hypotheses. -/
namespace Sys2Proof.Tests

open Sys2Proof.Machine

/-- The state after `RESET 00` (R78): PHASE 0, every other register 0. -/
def s0 : State := State.reset.release false false

/-- Velocity context of the vectors S1, S2: gains 1.0, 0.5, 0.25. -/
def tuned : Context := { Context.zero with kp := 0x00010000, ki := 0x00008000, kd := 0x00004000 }

/-- The outcome is a next state of which `p` holds. -/
def ends (o : Host.Outcome State Fault Refusal) (p : State → Bool) : Bool :=
  match o with
  | .next t => p t
  | .fault _ => false
  | .refused _ => false

/-! WellFormed refuses an ill-formed term for each of its checks (R51, R52). -/

theorem test_wellFormed_refuses_halfword : (BusTxn.read 0x80#8 0b01#2).sized = false := by decide
theorem test_wellFormed_refuses_reserved_size : (BusTxn.write 0x80#8 0b11#2 1#32).sized = false := by decide
theorem test_wellFormed_refuses_misaligned : (BusTxn.read 0x81#8 0b10#2).aligned = false := by decide
theorem test_wellFormed_refuses_transaction : (BusTxn.read 0x82#8 0b10#2).wellFormed = false := by decide
theorem test_wellFormed_refuses_operation : (Operation.bus (.write 0x80#8 0b00#2 1#32)).wellFormed = false := by decide
theorem test_wellFormed_accepts_word : (BusTxn.read 0x80#8 0b10#2).wellFormed = true := by decide

/-! Decoding, each constructor from the bits of 30_encoding.md R70 and R74, with l = 0 and l = 1. -/

theorem test_decode_edge : decodeTableWord 8 0b10 = some (.edge true false) ∧ decodeTableWord 8 0b01 = some (.edge false true) := by
  decide
theorem test_decode_rdQdDrain : decodeTableWord 16 0b000000000 = some (.rdQdDrain) := by decide
theorem test_decode_rdQdStatus : decodeTableWord 16 0b000000100 = some (.rdQdStatus) := by decide
theorem test_decode_wrQdStatus : decodeTableWord 16 0b100000100 = some (.wrQdStatus 0) := by decide
theorem test_decode_rdTarget : decodeTableWord 16 0b010000000 = some (.rdTarget .velocity) ∧
    decodeTableWord 16 0b011000000 = some (.rdTarget .position) := by decide
theorem test_decode_wrTarget : decodeTableWord 16 0b110000000 = some (.wrTarget .velocity 0) ∧
    decodeTableWord 16 0b111000000 = some (.wrTarget .position 0) := by decide
theorem test_decode_rdMeas : decodeTableWord 16 0b010000100 = some (.rdMeas .velocity) ∧
    decodeTableWord 16 0b011000100 = some (.rdMeas .position) := by decide
theorem test_decode_wrMeas : decodeTableWord 16 0b110000100 = some (.wrMeas .velocity 0) ∧
    decodeTableWord 16 0b111000100 = some (.wrMeas .position 0) := by decide
theorem test_decode_rdKpSh : decodeTableWord 16 0b010001000 = some (.rdKpSh .velocity) ∧
    decodeTableWord 16 0b011001000 = some (.rdKpSh .position) := by decide
theorem test_decode_wrKpSh : decodeTableWord 16 0b110001000 = some (.wrKpSh .velocity 0) ∧
    decodeTableWord 16 0b111001000 = some (.wrKpSh .position 0) := by decide
theorem test_decode_rdKiSh : decodeTableWord 16 0b010001100 = some (.rdKiSh .velocity) ∧
    decodeTableWord 16 0b011001100 = some (.rdKiSh .position) := by decide
theorem test_decode_wrKiSh : decodeTableWord 16 0b110001100 = some (.wrKiSh .velocity 0) ∧
    decodeTableWord 16 0b111001100 = some (.wrKiSh .position 0) := by decide
theorem test_decode_rdKdSh : decodeTableWord 16 0b010010000 = some (.rdKdSh .velocity) ∧
    decodeTableWord 16 0b011010000 = some (.rdKdSh .position) := by decide
theorem test_decode_wrKdSh : decodeTableWord 16 0b110010000 = some (.wrKdSh .velocity 0) ∧
    decodeTableWord 16 0b111010000 = some (.wrKdSh .position 0) := by decide
theorem test_decode_wrCfgCommit : decodeTableWord 16 0b110010100 = some (.wrCfgCommit .velocity 0) ∧
    decodeTableWord 16 0b111010100 = some (.wrCfgCommit .position 0) := by decide
theorem test_decode_wrStep : decodeTableWord 16 0b110011000 = some (.wrStep .velocity 0) ∧
    decodeTableWord 16 0b111011000 = some (.wrStep .position 0) := by decide
theorem test_decode_rdKp : decodeTableWord 16 0b010011100 = some (.rdKp .velocity) ∧
    decodeTableWord 16 0b011011100 = some (.rdKp .position) := by decide
theorem test_decode_rdKi : decodeTableWord 16 0b010100000 = some (.rdKi .velocity) ∧
    decodeTableWord 16 0b011100000 = some (.rdKi .position) := by decide
theorem test_decode_rdKd : decodeTableWord 16 0b010100100 = some (.rdKd .velocity) ∧
    decodeTableWord 16 0b011100100 = some (.rdKd .position) := by decide
theorem test_decode_rdInteg : decodeTableWord 16 0b010101000 = some (.rdInteg .velocity) ∧
    decodeTableWord 16 0b011101000 = some (.rdInteg .position) := by decide
theorem test_decode_rdPrevErr : decodeTableWord 16 0b010101100 = some (.rdPrevErr .velocity) ∧
    decodeTableWord 16 0b011101100 = some (.rdPrevErr .position) := by decide
theorem test_decode_rdPTerm : decodeTableWord 16 0b010110000 = some (.rdPTerm .velocity) ∧
    decodeTableWord 16 0b011110000 = some (.rdPTerm .position) := by decide
theorem test_decode_rdITerm : decodeTableWord 16 0b010110100 = some (.rdITerm .velocity) ∧
    decodeTableWord 16 0b011110100 = some (.rdITerm .position) := by decide
theorem test_decode_rdDTerm : decodeTableWord 16 0b010111000 = some (.rdDTerm .velocity) ∧
    decodeTableWord 16 0b011111000 = some (.rdDTerm .position) := by decide
theorem test_decode_rdOutput : decodeTableWord 16 0b010111100 = some (.rdOutput .velocity) ∧
    decodeTableWord 16 0b011111100 = some (.rdOutput .position) := by decide

/-- WDATA reaches the operation whole (R73). -/
theorem test_decode_wdata : decode (.bus (.write 0xC0#8 0b10#2 0xFFFF8000#32)) = .ok (.wrTarget .position 0xFFFF8000#32) := by
  rfl

/-! Rejections, by name: vectors A7, A8, A11, A12, A13, D12. -/

theorem test_reject_write_of_kp : decodeBus (.write 0x9C#8 0b10#2 1#32) = .error .writeToReadOnly := by rfl
theorem test_reject_write_of_drain : decodeBus (.write 0x00#8 0b10#2 0#32) = .error .writeToReadOnly := by rfl
theorem test_reject_read_of_step : decodeBus (.read 0x98#8 0b10#2) = .error .readOfTrigger := by rfl
theorem test_reject_misaligned : decodeBus (.read 0x81#8 0b10#2) = .error .misaligned := by rfl
theorem test_reject_halfword : decodeBus (.read 0x80#8 0b01#2) = .error .badSize := by rfl
theorem test_reject_reserved : decodeBus (.read 0x08#8 0b10#2) = .error .reservedOffset := by rfl

/-! EDGE: vectors E19 and E22 (a skipped phase that overflows), and E14. -/

theorem test_edge_E19 : ends (exec (.edge true false) { s0 with phase := 1, acc := 126 })
    (fun t => t.phase == 3 && t.acc == 0x80 && t.accOvf) = true := by decide
theorem test_edge_E22 : ends (exec (.edge false false) { s0 with phase := 2, acc := 0x81 })
    (fun t => t.phase == 0 && t.acc == 127 && t.accOvf) = true := by decide

/-! Drain and status: vectors D2, D5, D7, D8, D10. -/

theorem test_drain_D2 : ends (exec .rdQdDrain { s0 with acc := 0xFD })
    (fun t => t.rdata == some 0xFFFFFFFD && t.acc == 0) = true := by decide
theorem test_drain_D5 : ends (exec .rdQdDrain { s0 with acc := 7, accOvf := true })
    (fun t => t.rdata == some 7 && t.accOvf) = true := by decide
theorem test_status_D7 : ends (exec .rdQdStatus { s0 with phase := 3, accOvf := true, busErr := true })
    (fun t => t.rdata == some 0xF && t.accOvf && t.busErr) = true := by decide
theorem test_status_D6 : ends (exec .rdQdStatus { s0 with phase := 2, accOvf := true })
    (fun t => t.rdata == some 6) = true := by decide
theorem test_clear_D8 : ends (exec (.wrQdStatus 4) { s0 with accOvf := true, busErr := true })
    (fun t => !t.accOvf && t.busErr) = true := by decide
theorem test_clear_D10 : ends (exec (.wrQdStatus 0xFFFFFFFF) { s0 with phase := 1 })
    (fun t => !t.accOvf && !t.busErr && t.phase == 1) = true := by decide

/-! Context registers: vectors A2 to A6; each register has a value of its own, so that a swapped one shows. -/

/-- A context whose registers all differ. -/
def marked : Context :=
  { target := 10, meas := 11, kpSh := 12, kiSh := 13, kdSh := 14, kp := 17, ki := 18, kd := 19
    integ := 20, prevErr := 21, pTerm := 22, iTerm := 23, dTerm := 24, output := 25 }

/-- The position context is marked, the velocity context is 0. -/
def s1 : State := { s0 with pos := marked }

theorem test_rdTarget : ends (exec (.rdTarget .position) s1) (fun t => t.rdata == some 10 && t.pos == marked) = true := by decide
theorem test_rdMeas : ends (exec (.rdMeas .position) s1) (fun t => t.rdata == some 11 && t.pos == marked) = true := by decide
theorem test_rdKpSh : ends (exec (.rdKpSh .position) s1) (fun t => t.rdata == some 12 && t.pos == marked) = true := by decide
theorem test_rdKiSh : ends (exec (.rdKiSh .position) s1) (fun t => t.rdata == some 13 && t.pos == marked) = true := by decide
theorem test_rdKdSh : ends (exec (.rdKdSh .position) s1) (fun t => t.rdata == some 14 && t.pos == marked) = true := by decide
theorem test_rdKp : ends (exec (.rdKp .position) s1) (fun t => t.rdata == some 17 && t.pos == marked) = true := by decide
theorem test_rdKi : ends (exec (.rdKi .position) s1) (fun t => t.rdata == some 18 && t.pos == marked) = true := by decide
theorem test_rdKd : ends (exec (.rdKd .position) s1) (fun t => t.rdata == some 19 && t.pos == marked) = true := by decide
theorem test_rdInteg : ends (exec (.rdInteg .position) s1) (fun t => t.rdata == some 20 && t.pos == marked) = true := by decide
theorem test_rdPrevErr : ends (exec (.rdPrevErr .position) s1) (fun t => t.rdata == some 21 && t.pos == marked) = true := by decide
theorem test_rdPTerm : ends (exec (.rdPTerm .position) s1) (fun t => t.rdata == some 22 && t.pos == marked) = true := by decide
theorem test_rdITerm : ends (exec (.rdITerm .position) s1) (fun t => t.rdata == some 23 && t.pos == marked) = true := by decide
theorem test_rdDTerm : ends (exec (.rdDTerm .position) s1) (fun t => t.rdata == some 24 && t.pos == marked) = true := by decide
theorem test_rdOutput : ends (exec (.rdOutput .position) s1) (fun t => t.rdata == some 25 && t.pos == marked) = true := by decide
theorem test_wrTarget : ends (exec (.wrTarget .position 0xFFFF8000) s1)
    (fun t => t.pos == { marked with target := 0xFFFF8000 } && t.vel == Context.zero) = true := by decide
theorem test_wrMeas : ends (exec (.wrMeas .position 0xFFFF8000) s1)
    (fun t => t.pos == { marked with meas := 0xFFFF8000 } && t.vel == Context.zero) = true := by decide
theorem test_wrKpSh : ends (exec (.wrKpSh .position 0xFFFF8000) s1)
    (fun t => t.pos == { marked with kpSh := 0xFFFF8000 } && t.vel == Context.zero) = true := by decide
theorem test_wrKiSh : ends (exec (.wrKiSh .position 0xFFFF8000) s1)
    (fun t => t.pos == { marked with kiSh := 0xFFFF8000 } && t.vel == Context.zero) = true := by decide
theorem test_wrKdSh : ends (exec (.wrKdSh .position 0xFFFF8000) s1)
    (fun t => t.pos == { marked with kdSh := 0xFFFF8000 } && t.vel == Context.zero) = true := by decide
theorem test_commit : ends (exec (.wrCfgCommit .position 0xDEAD) s1)
    (fun t => t.pos == { marked with kp := 12, ki := 13, kd := 14 } && t.vel == Context.zero) = true := by decide

/-! WR STEP: vectors S2 (an integral and a previous error stand) and S13 (the derivative saturates). -/

/-- The context before S2: target 10.0, measured 7.0, integral and previous error 6.0. -/
def beforeS2 : Context :=
  { tuned with target := 0x000A0000, meas := 0x00070000, integ := 0x00060000, prevErr := 0x00060000 }

/-- The context before S13: gain kd = 1.0, and an error as far down as the previous one was up. -/
def beforeS13 : Context := { Context.zero with kd := 0x00010000, target := 0x80000000, prevErr := 0x7FFFFFFF }

theorem test_step_S2 : ends
    (exec (.wrStep .velocity 0) { s0 with vel := beforeS2 })
    (fun t => t.vel.integ == 0x00090000 && t.vel.prevErr == 0x00030000 && t.vel.pTerm == 0x00030000 &&
      t.vel.iTerm == 0x00048000 && t.vel.dTerm == 0xFFFF4000 && t.vel.output == 0x0006C000) = true := by decide
theorem test_step_S13 : ends
    (exec (.wrStep .position 0) { s0 with pos := beforeS13 })
    (fun t => t.pos.integ == 0xFC180000 && t.pos.prevErr == 0x80000000 && t.pos.dTerm == 0x80000000 &&
      t.pos.output == 0x80000000) = true := by decide

/-! The arithmetic: vectors S8 and S9 (floor), S12, S14 and S17 (saturation and clamp), by the functions of R142, R143, R144. -/

theorem test_mulQ_S8 : mulQ 0x00008000 0xFFFFFFFF = 0xFFFFFFFF ∧ mulQ 0x00008000 1 = 0 := by decide
theorem test_mulQ_S12 : mulQ 0x7FFFFFFF 0x00020000 = 0x7FFFFFFF ∧ mulQ 0x75300000 0x00010000 = 0x75300000 := by decide
theorem test_output_S14 : ({ Context.zero with kp := 0x75300000, ki := 0x75300000, target := 0x00010000 } : Context).nextOutput =
    0x7FFFFFFF := by decide
theorem test_integ_S17 : integNext 0x03E7FFFF 2 = 0x03E80000 ∧ integNext 0x03E80000 0 = 0x03E80000 := by decide

/-! The bus and the reset input as steps. -/

/-- A10: a write of INTEG is illegal and leaves it. -/
theorem test_illegal_A10 : ends (step { s1 with host := [.write 0xE8#8 0b10#2 0], sched := [.host] })
    (fun t => t.pos == marked && t.busErr && t.rdata == none) = true := by decide
/-- A9: a read of CFG_COMMIT is illegal, returns 0 and does not commit. -/
theorem test_illegal_A9 : ends (step { s1 with host := [.read 0xD4#8 0b10#2], sched := [.host] })
    (fun t => t.pos == marked && t.busErr && t.rdata == some 0) = true := by decide
/-- R190: in reset a write is ignored and a read of the drain returns 0 and drains nothing. -/
theorem test_held_in_reset : ends (step { s1 with acc := 5, rst := true, host := [.read 0x00#8 0b10#2], sched := [.host] })
    (fun t => t.acc == 5 && t.rdata == some 0 && !t.busErr) = true := by decide
/-- P2: `RESET 11` gives PHASE 2 and everything else 0. -/
theorem test_release : ends (step { s1 with acc := 5, busErr := true, resets := [.releaseRst true true], sched := [.reset] })
    (fun t => t.phase == 2 && t.acc == 0 && !t.busErr && t.pos == Context.zero && !t.rst) = true := by decide
/-- The schedule, not the lists, says who comes first (R57): the drain before the EDGE. -/
theorem test_schedule : ends
    (step { s0 with acc := 5, edges := [0b01#2], host := [.read 0x00#8 0b10#2], sched := [.host, .edge] })
    (fun t => t.rdata == some 5 && t.acc == 0 && t.edges == [0b01#2] && t.sched == [.edge]) = true := by decide
/-- The first operation after reset, as withFetchWord presents it: WR STEP runs on the zero gains. -/
theorem test_first_operation : ends (step (State.reset.withFetchWord 16 0b110011000)) (fun t => t.vel.output == 0) = true := by
  decide
/-- EDGE as the first operation after reset completes, whatever the pins were. -/
theorem test_first_edge : ends (step (State.reset.withFetchWord 8 0b01)) (fun t => t.phase == 1) = true := by decide

/-! Pseudo-operations: P2, lines 1 to 7. -/

theorem test_pseudo_P2 : ends
    (execAll ((Pseudo.cfg .velocity 0x00010000 0x00008000 0x00004000).expand ++
      (Pseudo.pid .velocity 0x000A0000 0x00040000).expand) s0)
    (fun t => t.vel.output == 0x000A8000 && t.vel.dTerm == 0x00018000) = true := by decide

theorem test_line_repeat : repeatLines 2 [.op (.edge false true), .raw (.read 0x02#8 0b10#2)] =
    [.op (.edge 0b01#2), .op (.bus (.read 0x02#8 0b10#2)), .op (.edge 0b01#2), .op (.bus (.read 0x02#8 0b10#2))] := by decide

/-! Witnesses: concrete states and operands that meet the hypotheses of each obligation that has some. Where a
statement has clauses over ranges, each has one at the edge of its range. -/

theorem witness_DeltaMatchesTable : ¬ ((1#2 : Phase) = 3#2 ∧ (3#2 : Phase) = 0#2) ∧
    ¬ ((1#2 : Phase) = 0#2 ∧ (3#2 : Phase) = 3#2) := by decide

/-- ACC 126 and +1: 127, the last sum in range; 127 and +1: 128; -128 and -1: -129. -/
theorem witness_AccOverflow_in_range :
    ends (exec (.edge false true) { s0 with acc := 126 }) (fun t => !t.accOvf && t.acc == 127) = true := by decide
theorem witness_AccOverflow_above :
    ends (exec (.edge false true) { s0 with acc := 127 }) (fun t => t.accOvf && t.acc == 0x80) = true := by decide
theorem witness_AccOverflow_below :
    ends (exec (.edge true false) { s0 with acc := 0x80 }) (fun t => t.accOvf && t.acc == 127) = true := by decide
theorem witness_AccOverflow_cleared :
    ends (exec (.wrQdStatus 4) { s0 with accOvf := true }) (fun t => !t.accOvf) = true ∧
    (4#32).getLsbD 2 = true ∧
    ends (perform (.reset (.releaseRst true false)) { s0 with accOvf := true }) (fun t => !t.accOvf) = true := by decide

theorem witness_DrainReadsAndZeroes : s0.rst = false ∧
    ends (memWrite 0x00#8 7 { s0 with acc := 4 }) (fun t => t.acc == 4 && t.busErr) = true := by decide

theorem witness_StatusWriteClearsWrittenOnes : (0x4#32).getLsbD 2 = (0xFFFFFFF7#32).getLsbD 2 ∧
    (0x4#32).getLsbD 3 = (0xFFFFFFF7#32).getLsbD 3 := by decide

/-- A step that sets ACC_OVF, a step that clears it by a write, and one that clears it by a release. -/
theorem witness_AccOvfIsSticky_set : ends (step { s0 with acc := 127, edges := [0b01#2], sched := [.edge] })
    (fun t => t.accOvf) = true ∧
    State.nextInstr { s0 with acc := 127, edges := [0b01#2], sched := [.edge] } = some (.edge false true) := by decide
theorem witness_AccOvfIsSticky_cleared :
    ends (step { s0 with accOvf := true, host := [.write 0x04#8 0b10#2 4], sched := [.host] }) (fun t => !t.accOvf) = true ∧
    ends (step { s0 with accOvf := true, resets := [.releaseRst false true], sched := [.reset] }) (fun t => !t.accOvf) = true := by
  decide

theorem witness_BusErrIsSticky_set : s0.rst = false ∧
    State.nextEvent { s0 with host := [.read 0x02#8 0b10#2], sched := [.host] } =
      (some (.op (.bus (.read 0x02#8 0b10#2))), s0) ∧
    ends (step { s0 with host := [.read 0x02#8 0b10#2], sched := [.host] }) (fun t => t.busErr) = true := by decide
theorem witness_BusErrIsSticky_cleared :
    ends (step { s0 with busErr := true, host := [.write 0x04#8 0b10#2 8], sched := [.host] }) (fun t => !t.busErr) = true ∧
    ends (step { s0 with busErr := true, resets := [.releaseRst false true], sched := [.reset] }) (fun t => !t.busErr) = true := by
  decide

/-- A step exists from a state with an event to perform; the claims about every step have no other hypothesis. -/
theorem witness_PhaseAndAccHaveTheirWritersOnly :
    ends (step { s0 with edges := [0b11#2], sched := [.edge] }) (fun t => t.phase != s0.phase && t.acc != s0.acc) = true := by
  decide

theorem witness_PureRotationCountsTo127 :
    allDeltas 1 s0.phase [(false, true), (true, true), (true, false), (false, false)] ∧
    allDeltas (-1) s0.phase [(true, false), (true, true), (false, true), (false, false)] ∧
    s0.acc = 0#8 ∧ s0.accOvf = false := by
  refine ⟨⟨by decide, by decide, by decide, by decide, trivial⟩, ⟨by decide, by decide, by decide, by decide, trivial⟩, ?_⟩
  decide

theorem witness_EdgeAndDrainInEitherOrder : -128 ≤ s0.acc.toInt + delta s0.phase (phaseOf false true) ∧
    s0.acc.toInt + delta s0.phase (phaseOf false true) ≤ 127 := by decide

/-- A run of an EDGE and a drain: two ticks counted and two drained. -/
def s2 : State := { s0 with edges := [0b11#2], host := [.read 0x00#8 0b10#2], sched := [.edge, .host] }

theorem witness_Run : ∃ t g, Run s2 Account.zero t g ∧ s2.acc = 0#8 ∧ s2.accOvf = false ∧ g.sawOvf = false ∧
    g.maxGap ≤ 63 ∧ g.drained = 2 ∧ g.counted = 2 := by
  refine ⟨_, _, .more (.more .start rfl) rfl, ?_⟩
  decide

/-- A run with an EDGE and a drain, which meets the bound's premise. The edge of the bound is the step of
witness_StepKeepsDrainIntervalBound. -/
theorem witness_DrainsInTimePreventOverflow : ∃ t g, Run s2 Account.zero t g ∧ s2.acc = 0#8 ∧ s2.accOvf = false ∧
    g.maxGap = 1 := by
  refine ⟨_, _, .more (.more .start rfl) rfl, ?_⟩
  decide

/-- The laws of the accounts hold right after reset. -/
theorem account_laws_hold_at_reset : Account.zero.Conserves State.reset ∧ Account.zero.ConservesModulo State.reset ∧
    Account.zero.DrainedInTime State.reset := by decide

/-- 30 ticks counted, 25 drained and 5 left in ACC, a drain next: 30 drained and 0 left. -/
theorem witness_StepKeepsTickConservation :
    ({ Account.zero with drained := 25, counted := 30 } : Account).Conserves { s0 with acc := 5 } ∧
    ends (step { s0 with acc := 5, host := [.read 0x00#8 0b10#2], sched := [.host] })
      (fun t => t.acc == 0 && t.returned == 5) = true := by decide

/-- ACC = 127 with 127 ticks counted, and an EDGE of one tick that overflows. -/
theorem witness_StepKeepsTickConservationModulo :
    ({ Account.zero with counted := 127 } : Account).ConservesModulo { s0 with acc := 127 } ∧
    ends (step { s0 with acc := 127, edges := [0b01#2], sched := [.edge] }) (fun t => t.accOvf && t.acc == 0x80) = true := by
  decide

/-- The 63rd EDGE since a drain, after 62 of two ticks each. -/
theorem witness_StepKeepsDrainIntervalBound :
    ({ Account.zero with gap := 62, maxGap := 62 } : Account).DrainedInTime { s0 with acc := 124 } ∧
    ends (step { s0 with acc := 124, edges := [0b11#2], sched := [.edge] }) (fun t => !t.accOvf && t.acc == 126) = true := by
  decide

theorem witness_IntegralClampsInclusively : (0x03E80000#32).toInt = 65536000 ∧ 0 < (1#32).toInt ∧ (0xFFFFFFFF#32).toInt < 0 := by
  decide

theorem witness_StepsOfTheContextsCommute : Loop.position ≠ Loop.velocity ∧
    ({ s1 with acc := 5, busErr := true } : State).ctx .velocity = s1.ctx .velocity ∧
    ends (exec (.wrStep .velocity 0) s1) (fun t => t.pos == marked) = true := by decide

theorem witness_ZeroGainsGiveZeroOutput : (s0.ctx .velocity).kp = 0#32 ∧ (s0.ctx .velocity).ki = 0#32 ∧
    (s0.ctx .velocity).kd = 0#32 ∧ (s0.ctx .velocity).target = (s0.ctx .velocity).meas ∧
    (s0.ctx .velocity).IntegBounded := by decide

/-- A step that is not a commit, from zero gains: a STEP with an error of 3.0. -/
theorem witness_OutputStaysZeroUntilCommit :
    State.nextInstr { s0 with vel := { Context.zero with target := 0x00030000 }, host := [.write 0x98#8 0b10#2 0], sched := [.host] } =
      some (.wrStep .velocity 0) ∧
    ends (step { s0 with vel := { Context.zero with target := 0x00030000 }, host := [.write 0x98#8 0b10#2 0], sched := [.host] })
      (fun t => t.vel.integ == 0x00030000 && t.vel.output == 0) = true := by decide

theorem witness_StepBoundsIntegralAndItsTerm :
    ends (exec (.wrStep .velocity 0) { s0 with vel := { tuned with target := 0x7FFFFFFF, meas := 0x80000000 } })
      (fun t => t.vel.integ == 0x03E80000) = true := by decide

/-- The invariant at both inclusive bounds, and a step from there. -/
theorem witness_IntegralBoundIsInvariant :
    State.Inv { s0 with vel := { tuned with integ := 0x03E80000 }, pos := { tuned with integ := 0xFC180000 } } ∧
    ends (step { s2 with vel := { tuned with integ := 0x03E80000 } }) (fun t => t.vel.integ == 0x03E80000) = true := by decide

theorem witness_ContextsAreIndependent : (Instr.wrKpSh .velocity 5).loop? = some .velocity ∧ Loop.position ≠ Loop.velocity ∧
    ends (exec (.wrKpSh .velocity 5) s1) (fun t => t.vel.kpSh == 5) = true := by decide

theorem witness_GainsChangeOnlyByCommit :
    ends (step { s1 with host := [.write 0xD4#8 0b10#2 0], sched := [.host] }) (fun t => t.pos.kp == 12) = true := by decide
theorem witness_PidStateChangesOnlyByStep :
    ends (step { s1 with host := [.write 0xD8#8 0b10#2 0], sched := [.host] }) (fun t => t.pos.prevErr == 0xFFFFFFFF) = true := by decide

/-- Window offsets at the edges: index 0 and 15 (values), 5 (no value), 4 (last written) and 7 (first read only). -/
theorem witness_WindowShowsTheContextRegisters : s1.rst = false ∧
    (0xC0#8).toNat = 0x80 + 0x40 * Loop.position.bit.toNat + 4 * (0#4).toNat ∧
    (0xFC#8).toNat = 0x80 + 0x40 * Loop.position.bit.toNat + 4 * (15#4).toNat ∧
    (s1.ctx .position).slot 0#4 = some 10 ∧ (s1.ctx .position).slot 15#4 = some 25 ∧
    (s1.ctx .position).slot 5#4 = none ∧ (4#4).toNat ≤ 4 ∧ 7 ≤ (7#4).toNat := by decide

theorem witness_AdmittedOperationsKeepTheOtherUnit :
    ends (exec (.wrStep .position 0) { s1 with busErr := true }) (fun t => t.busErr) = true ∧
    (Instr.wrStep .position 0).loop? ≠ none ∧ (Instr.rdQdDrain).loop? = none ∧
    ends (exec .rdQdDrain s1) (fun t => t.pos == marked) = true := by decide

theorem witness_ReadsAndPlainWritesAreIdempotent :
    encode (.rdKp .velocity) = .bus (.read 0x9C#8 0b10#2) ∧ (0x9C#8 : Offset) ≠ 0x00#8 ∧
    encode (.wrMeas .position 3) = .bus (.write 0xC4#8 0b10#2 3) ∧ (0xC4#8 : Offset) ≠ 0x98#8 ∧ (0xC4#8 : Offset) ≠ 0xD8#8 := by
  decide

theorem witness_EncodeOfDecodeIsIdentity : decode (.bus (.read 0xFC#8 0b10#2)) = .ok (.rdOutput .position) := by rfl

/-- One transaction for each clause of the list of illegal ones, at the edge of its range. -/
theorem witness_IllegalTransactionOnlySetsBusErr : s0.rst = false ∧
    ends (performOp (.bus (.read 0x80#8 0b11#2)) s0) (fun t => t.busErr) = true ∧
    ends (performOp (.bus (.read 0x03#8 0b10#2)) s0) (fun t => t.busErr) = true ∧
    ends (performOp (.bus (.read 0x7C#8 0b10#2)) s0) (fun t => t.busErr) = true ∧
    ends (performOp (.bus (.write 0x00#8 0b10#2 0)) s0) (fun t => t.busErr) = true ∧
    ends (performOp (.bus (.write 0x9C#8 0b10#2 0)) s0) (fun t => t.busErr) = true ∧
    ends (performOp (.bus (.read 0xD8#8 0b10#2)) s0) (fun t => t.busErr) = true := by decide
theorem witness_IllegalTransaction_cleared : (8#32).getLsbD 3 = true ∧
    ends (exec (.wrQdStatus 8) { s0 with busErr := true }) (fun t => !t.busErr) = true := by decide

theorem witness_ByteLanesAreLittleEndian : byteLane 0x04030201#32 3 = 4#8 ∧ ofByteLanes 1 2 3 4 = 0x04030201#32 := by decide

theorem witness_OperationsAreHeldInReset : ({ s0 with rst := true } : State).rst = true := by decide

theorem witness_FirstEdgeCountsFromTheReleasedPins :
    ends (perform (.reset (.releaseRst true true)) s1) (fun t => t.phase == 2) = true := by decide

theorem witness_StepPerformsTheScheduledEvent : s2.sched = .edge :: [.host] ∧ s2.edges = 0b11#2 :: [] ∧ s2.rst = false ∧
    s2.nextEvent = (some (.op (.edge 0b11#2)), { s2 with edges := [], sched := [.host] }) ∧
    ({ s2 with sched := [.host] } : State).host = .read 0x00#8 0b10#2 :: [] := by decide
theorem witness_StepPerformsTheScheduledEvent_decodes : decode (.edge 0b11#2) = .ok (.edge true true) ∧
    decode (.bus (.read 0x00#8 0b10#2)) = .ok .rdQdDrain ∧ s0.sched = [] := ⟨rfl, rfl, rfl⟩
theorem witness_StepPerformsTheScheduledEvent_reset :
    ({ s0 with resets := [.assertRst], sched := [.reset] } : State).resets = .assertRst :: [] := by decide

theorem witness_IssuedTransactionIsNextWhenScheduled : s2.host = .read 0x00#8 0b10#2 :: [] ∧
    s2.sched = [Agent.edge] ++ .host :: [] ∧ Agent.host ∉ [Agent.edge] := by decide

theorem witness_LoadedEventsArePerformedInOrder : s0.edges = [] ∧ s0.host = [] ∧ s0.resets = [] ∧ s0.sched = [] ∧
    (s0.load (Line.events (.reset true true))).sched = [.reset, .reset] ∧
    ends (performAll (Line.events (.reset true true)) s0) (fun t => t.phase == 2) = true := by decide

theorem witness_EdgesCommuteWithPidOperations : (Instr.wrStep .velocity 0).loop? = some .velocity := by decide

theorem witness_ConditionsDoNotDependOnOrder : s0.rst = false ∧ decodeBus (.read 0x02#8 0b10#2) = .error .misaligned := ⟨rfl, rfl⟩

end Sys2Proof.Tests
end

namespace Sys2Proof.Machine

/-! What `State.nextEvent` takes: one equation for each agent that brings an event, and one for the empty schedule
(R20, R56). -/

theorem State.nextEvent_of_edge {s : State} {ab : BitVec 2} {more : List (BitVec 2)} {rest : List Agent}
    (hs : s.sched = .edge :: rest) (he : s.edges = ab :: more) :
    s.nextEvent = (some (.op (.edge ab)), { s with sched := rest, edges := more }) := by
  simp only [State.nextEvent, hs, he]

theorem State.nextEvent_of_host {s : State} {t : BusTxn} {more : List BusTxn} {rest : List Agent}
    (hs : s.sched = .host :: rest) (hh : s.host = t :: more) :
    s.nextEvent = (some (.op (.bus t)), { s with sched := rest, host := more }) := by
  simp only [State.nextEvent, hs, hh]

theorem State.nextEvent_of_reset {s : State} {e : ResetEvent} {more : List ResetEvent} {rest : List Agent}
    (hs : s.sched = .reset :: rest) (hr : s.resets = e :: more) :
    s.nextEvent = (some (.reset e), { s with sched := rest, resets := more }) := by
  simp only [State.nextEvent, hs, hr]

theorem State.nextEvent_of_nil {s : State} (hs : s.sched = []) : s.nextEvent = (none, s) := by
  simp only [State.nextEvent, hs]

/-! What `step` does with the event that was taken (R15). -/

theorem step_of_nextEvent_some {s s' : State} {ev : Event} (h : s.nextEvent = (some ev, s')) :
    step s = perform ev s' := by
  simp only [step, h]

theorem step_of_nextEvent_none {s s' : State} (h : s.nextEvent = (none, s')) : step s = .next s' := by
  simp only [step, h]

/-- Outside reset, a step on an operation that decodes executes the decoded instruction (R15, R75). -/
theorem step_of_nextEvent_decodes {s s' : State} {op : Operation} {i : Instr}
    (h : s.nextEvent = (some (.op op), s')) (hr : s.rst = false) (hd : decode op = .ok i) : step s = exec i s' := by
  have hr' : s'.rst = false := by simpa [h, hr] using s.nextEvent_rst
  exact (step_of_nextEvent_some h).trans (performOp_of_decode hr' hd)

/-- Settles O51: the event that the scheduled agent brings is the one taken, and `step` performs what was taken. -/
theorem stepPerformsTheScheduledEvent : Obligations.StepPerformsTheScheduledEvent := by
  refine ⟨?edge, ?host, ?op, ?reset, ?idle⟩
  case edge =>
    intro s ab more rest i hs he hr hd
    exact step_of_nextEvent_decodes (State.nextEvent_of_edge hs he) hr hd
  case host =>
    intro s t more rest i hs hh hr hd
    exact step_of_nextEvent_decodes (State.nextEvent_of_host hs hh) hr hd
  case op =>
    intro s s' op h
    exact step_of_nextEvent_some h
  case reset =>
    intro s e more rest hs hr
    exact step_of_nextEvent_some (State.nextEvent_of_reset hs hr)
  case idle =>
    intro s hs
    exact step_of_nextEvent_none (State.nextEvent_of_nil hs)

end Sys2Proof.Machine

namespace Sys2Proof.Machine

/-! What a step does to a context, said once for R28 and R30 to R32. -/

/-- `d` has the active gains of `c` (R30). -/
abbrev Context.SameGains (c d : Context) : Prop := d.kp = c.kp ∧ d.ki = c.ki ∧ d.kd = c.kd

/-- `d` has the integral, the previous error, the terms and the output of `c` (R31, R33). -/
abbrev Context.SameResults (c d : Context) : Prop :=
  d.integ = c.integ ∧ d.prevErr = c.prevErr ∧ d.pTerm = c.pTerm ∧ d.iTerm = c.iTerm ∧ d.dTerm = c.dTerm ∧
    d.output = c.output

theorem Context.sameGains_and_sameResults_of_eq {c d : Context} (h : d = c) : c.SameGains d ∧ c.SameResults d :=
  h ▸ ⟨⟨rfl, rfl, rfl⟩, rfl, rfl, rfl, rfl, rfl, rfl⟩

theorem Context.step_sameGains (c : Context) : c.SameGains c.step := ⟨rfl, rfl, rfl⟩

theorem Context.commit_sameResults (c : Context) : c.SameResults c.commit := ⟨rfl, rfl, rfl, rfl, rfl, rfl⟩

@[simp] theorem State.heldInReset_ctx (s : State) (op : Operation) (l : Loop) :
    (s.heldInReset op).ctx l = s.ctx l := by
  cases l <;> simp

/-- What an operation does to context `l`: it is that context's STEP or its commit, or it keeps the gains and the
results. -/
theorem exec_ctx_cases {i : Instr} {s t : State} (l : Loop) (h : exec i s = .next t) :
    (∃ v, i = .wrStep l v ∧ t.ctx l = (s.ctx l).step) ∨
    (∃ v, i = .wrCfgCommit l v ∧ t.ctx l = (s.ctx l).commit) ∨
    ((s.ctx l).SameGains (t.ctx l) ∧ (s.ctx l).SameResults (t.ctx l)) := by
  have kept := Context.sameGains_and_sameResults_of_eq (c := s.ctx l) (d := t.ctx l)
  rcases exec_next_cases h with ⟨a, b, rfl, rfl⟩ | ⟨rfl, rfl⟩ | ⟨v, rfl, rfl⟩ | ⟨v, a, _, _, rfl⟩ | ⟨m, c, _, rfl, hc⟩
  case inl | inr.inl | inr.inr.inl => exact .inr (.inr (kept (by cases l <;> rfl)))
  case inr.inr.inr.inl => exact .inr (.inr (kept (s.ctx_respond v l)))
  case inr.inr.inr.inr =>
    by_cases hml : l = m
    · subst hml
      rw [State.ctx_withCtx_same]
      rcases hc with ⟨v, rfl, rfl⟩ | ⟨v, rfl, rfl⟩ | ⟨tgt, meas, p, q, d, rfl⟩
      · exact .inl ⟨v, rfl, rfl⟩
      · exact .inr (.inl ⟨v, rfl, rfl⟩)
      · exact .inr (.inr ⟨⟨rfl, rfl, rfl⟩, rfl, rfl, rfl, rfl, rfl, rfl⟩)
    · exact .inr (.inr (kept (s.ctx_withCtx_other hml c)))

/-- What a step does to context `l`: it releases reset, performs that context's STEP or its commit, or keeps the gains and
the results. -/
theorem step_ctx_cases {s t : State} (l : Loop) (h : step s = .next t) :
    (∃ a b, s.nextEvent.1 = some (.reset (.releaseRst a b)) ∧ t.ctx l = Context.zero) ∨
    (∃ v, s.nextInstr = some (.wrStep l v) ∧ t.ctx l = (s.ctx l).step) ∨
    (∃ v, s.nextInstr = some (.wrCfgCommit l v) ∧ t.ctx l = (s.ctx l).commit) ∨
    ((s.ctx l).SameGains (t.ctx l) ∧ (s.ctx l).SameResults (t.ctx l)) := by
  have kept := Context.sameGains_and_sameResults_of_eq (c := s.ctx l) (d := t.ctx l)
  rcases step_cases h with ⟨_, _, rfl⟩ | ⟨e, _, he, rfl⟩ | ⟨op, _, _, _, rfl⟩ | ⟨op, i, hi, _, _, _, hx⟩ |
    ⟨u, r, _, _, _, _, rfl⟩
  · exact .inr (.inr (.inr (kept (s.nextEvent_ctx l))))
  · rcases s.nextEvent.2.applyReset_cases e with ⟨rfl, ht⟩ | ⟨a, b, rfl, ht⟩
    · exact .inr (.inr (.inr (kept (by cases l <;> simp [ht]))))
    · exact .inl ⟨a, b, he, by simp [ht]⟩
  · exact .inr (.inr (.inr (kept (by simp))))
  · have hl := exec_ctx_cases l hx
    rw [State.nextEvent_ctx] at hl
    rcases hl with ⟨v, rfl, hc⟩ | ⟨v, rfl, hc⟩ | hc
    · exact .inr (.inl ⟨v, hi, hc⟩)
    · exact .inr (.inr (.inl ⟨v, hi, hc⟩))
    · exact .inr (.inr (.inr hc))
  · exact .inr (.inr (.inr (kept (by simp))))

/-! The bound of the integral (R32). -/

theorem Context.zero_integBounded : Context.zero.IntegBounded := by decide

/-- A STEP bounds the integral whatever it was, since it stores the clamped sum exactly (R143). -/
theorem Context.step_integBounded (c : Context) : c.step.IntegBounded := by
  have hc : c.step.integ.toInt = integNext c.integ c.error := wrap_integNext_toInt c.integ c.error
  rw [Context.IntegBounded, hc]
  exact integNext_bounds c.integ c.error

theorem Context.SameResults.integBounded {c d : Context} (h : c.SameResults d) (hc : c.IntegBounded) :
    d.IntegBounded := by
  obtain ⟨hinteg, -⟩ := h
  rwa [Context.IntegBounded, hinteg]

theorem State.inv_iff (s : State) : s.Inv ↔ ∀ l, (s.ctx l).IntegBounded := by
  refine ⟨fun ⟨hv, hp⟩ l => ?_, fun h => ⟨h .velocity, h .position⟩⟩
  cases l
  · exact hv
  · exact hp

/-- Settles O26: the invariant is one bound per context, which a release and a STEP establish and every other step keeps,
since it keeps INTEG. -/
theorem integralBoundIsInvariant : Obligations.IntegralBoundIsInvariant := by
  intro s t hs h
  rw [State.inv_iff] at hs ⊢
  intro l
  rcases step_ctx_cases l h with ⟨a, b, _, hc⟩ | ⟨v, _, hc⟩ | ⟨v, _, hc⟩ | ⟨_, hres⟩
  · exact hc ▸ Context.zero_integBounded
  · exact hc ▸ (s.ctx l).step_integBounded
  · exact hc ▸ (s.ctx l).commit_sameResults.integBounded (hs l)
  · exact hres.integBounded (hs l)

/-- Settles O27: both contexts are zero there, and zero lies within the bound. -/
theorem integralBoundHoldsAtReset : Obligations.IntegralBoundHoldsAtReset := by
  refine ⟨⟨Context.zero_integBounded, Context.zero_integBounded⟩, fun a b s t h => ?_⟩
  cases h
  exact ⟨Context.zero_integBounded, Context.zero_integBounded⟩

/-! Who writes the registers of a context (R28, R30, R31). -/

/-- Settles O28: of the things a step does to a context, only the release and the commit touch the gains. -/
theorem gainsChangeOnlyByCommit : Obligations.GainsChangeOnlyByCommit := by
  intro l s t h
  rcases step_ctx_cases l h with ⟨a, b, he, hc⟩ | ⟨v, _, hc⟩ | ⟨v, hi, hc⟩ | ⟨hgains, _⟩
  · exact .inr (.inr ⟨⟨a, b, he⟩, hc ▸ ⟨rfl, rfl, rfl⟩⟩)
  · exact .inl (hc ▸ (s.ctx l).step_sameGains)
  · exact .inr (.inl ⟨⟨v, hi⟩, hc ▸ ⟨rfl, rfl, rfl⟩⟩)
  · exact .inl hgains

/-- Settles O29: of the things a step does to a context, only the release and the STEP touch the results. -/
theorem pidStateChangesOnlyByStep : Obligations.PidStateChangesOnlyByStep := by
  intro l s t h
  rcases step_ctx_cases l h with ⟨a, b, he, hc⟩ | ⟨v, hi, _⟩ | ⟨v, _, hc⟩ | ⟨_, hres⟩
  · exact .inr (.inr ⟨⟨a, b, he⟩, hc⟩)
  · exact .inr (.inl ⟨v, hi⟩)
  · exact .inl (hc ▸ (s.ctx l).commit_sameResults)
  · exact .inl hres

theorem State.withCtx_comm {l m : Loop} (h : m ≠ l) (s : State) (c d : Context) :
    (s.withCtx m c).withCtx l d = (s.withCtx l d).withCtx m c := by
  match l, m, h with
  | .velocity, .position, _ => rfl
  | .position, .velocity, _ => rfl

theorem State.respond_withCtx (s : State) (l : Loop) (c : Context) (v : Word) :
    (s.withCtx l c).respond v = (s.respond v).withCtx l c := by
  cases l <;> rfl

/-- An operation of context `l` is a read that returns a register of that context, or it replaces that context by a
function of its own contents: it knows no other part of the state. -/
theorem exec_of_loop : ∀ {i : Instr} {l : Loop}, i.loop? = some l →
    (∃ f : Context → Word, ∀ s, exec i s = .next (s.respond (f (s.ctx l)))) ∨
    (∃ f : Context → Context, ∀ s, exec i s = .next (s.withCtx l (f (s.ctx l))))
  | .rdTarget _, _, rfl => .inl ⟨Context.target, fun _ => rfl⟩
  | .rdMeas _, _, rfl => .inl ⟨Context.meas, fun _ => rfl⟩
  | .rdKpSh _, _, rfl => .inl ⟨Context.kpSh, fun _ => rfl⟩
  | .rdKiSh _, _, rfl => .inl ⟨Context.kiSh, fun _ => rfl⟩
  | .rdKdSh _, _, rfl => .inl ⟨Context.kdSh, fun _ => rfl⟩
  | .rdKp _, _, rfl => .inl ⟨Context.kp, fun _ => rfl⟩
  | .rdKi _, _, rfl => .inl ⟨Context.ki, fun _ => rfl⟩
  | .rdKd _, _, rfl => .inl ⟨Context.kd, fun _ => rfl⟩
  | .rdInteg _, _, rfl => .inl ⟨Context.integ, fun _ => rfl⟩
  | .rdPrevErr _, _, rfl => .inl ⟨Context.prevErr, fun _ => rfl⟩
  | .rdPTerm _, _, rfl => .inl ⟨Context.pTerm, fun _ => rfl⟩
  | .rdITerm _, _, rfl => .inl ⟨Context.iTerm, fun _ => rfl⟩
  | .rdDTerm _, _, rfl => .inl ⟨Context.dTerm, fun _ => rfl⟩
  | .rdOutput _, _, rfl => .inl ⟨Context.output, fun _ => rfl⟩
  | .wrTarget _ v, _, rfl => .inr ⟨fun c => { c with target := v }, fun _ => rfl⟩
  | .wrMeas _ v, _, rfl => .inr ⟨fun c => { c with meas := v }, fun _ => rfl⟩
  | .wrKpSh _ v, _, rfl => .inr ⟨fun c => { c with kpSh := v }, fun _ => rfl⟩
  | .wrKiSh _ v, _, rfl => .inr ⟨fun c => { c with kiSh := v }, fun _ => rfl⟩
  | .wrKdSh _ v, _, rfl => .inr ⟨fun c => { c with kdSh := v }, fun _ => rfl⟩
  | .wrCfgCommit _ _, _, rfl => .inr ⟨Context.commit, fun _ => rfl⟩
  | .wrStep _ _, _, rfl => .inr ⟨Context.step, fun _ => rfl⟩

/-- Settles O31: an operation of context `l` reads and writes the state through `ctx l` only, and replacing context `m`
commutes with that. -/
theorem contextsAreIndependent : Obligations.ContextsAreIndependent := by
  intro i l m c s t hl hml h
  have hctx : (s.withCtx m c).ctx l = s.ctx l := s.ctx_withCtx_other hml.symm c
  rcases exec_of_loop hl with ⟨f, hf⟩ | ⟨f, hf⟩
  · obtain rfl : s.respond (f (s.ctx l)) = t := by simpa [hf] using h
    exact ⟨s.ctx_respond _ m, by rw [hf, hctx, State.respond_withCtx]⟩
  · obtain rfl : s.withCtx l (f (s.ctx l)) = t := by simpa [hf] using h
    exact ⟨s.ctx_withCtx_other hml _, by rw [hf, hctx, State.withCtx_comm hml]⟩

/-! Who writes PHASE, ACC and the two flags (R23 to R26). -/

/-- What a step does to the registers of the decoder: it releases reset, performs an EDGE, a drain or a write of
QD_STATUS, handles an illegal transaction, or keeps all four. -/
theorem step_decoder_cases {s t : State} (h : step s = .next t) :
    (∃ a b, s.nextEvent.1 = some (.reset (.releaseRst a b)) ∧
      t.phase = phaseOf a b ∧ t.acc = 0 ∧ t.accOvf = false ∧ t.busErr = false) ∨
    (∃ a b, s.nextInstr = some (.edge a b) ∧
      t.phase = phaseOf a b ∧ t.acc = wrap 8 (s.edgeSum (phaseOf a b)) ∧
      t.accOvf = (s.accOvf || accOverflows (s.edgeSum (phaseOf a b))) ∧ t.busErr = s.busErr) ∨
    (s.nextInstr = some .rdQdDrain ∧ t.rdata = some s.drainData ∧
      t.phase = s.phase ∧ t.acc = 0 ∧ t.accOvf = s.accOvf ∧ t.busErr = s.busErr) ∨
    (∃ v, s.nextInstr = some (.wrQdStatus v) ∧ t.phase = s.phase ∧ t.acc = s.acc ∧
      t.accOvf = afterW1C s.accOvf (v.getLsbD 2) ∧ t.busErr = afterW1C s.busErr (v.getLsbD 3)) ∨
    (∃ u r, s.rst = false ∧ s.nextEvent.1 = some (.op (.bus u)) ∧ decodeBus u = .error r ∧
      t.phase = s.phase ∧ t.acc = s.acc ∧ t.accOvf = s.accOvf ∧ t.busErr = true) ∨
    (t.phase = s.phase ∧ t.acc = s.acc ∧ t.accOvf = s.accOvf ∧ t.busErr = s.busErr) := by
  rcases step_cases h with ⟨_, _, rfl⟩ | ⟨e, _, he, rfl⟩ | ⟨op, _, _, _, rfl⟩ | ⟨op, i, hi, _, _, _, hx⟩ |
    ⟨u, r, _, he, hr, hd, rfl⟩
  · exact .inr (.inr (.inr (.inr (.inr (by simp)))))
  · rcases s.nextEvent.2.applyReset_cases e with ⟨rfl, ht⟩ | ⟨a, b, rfl, ht⟩ <;> rw [ht]
    · exact .inr (.inr (.inr (.inr (.inr (by simp)))))
    · exact .inl ⟨a, b, he, by simp⟩
  · exact .inr (.inr (.inr (.inr (.inr (by simp)))))
  · rcases exec_next_cases hx with ⟨a, b, rfl, rfl⟩ | ⟨rfl, rfl⟩ | ⟨v, rfl, rfl⟩ | ⟨v, a, _, _, rfl⟩ | ⟨l, c, _, rfl, _⟩
    · exact .inr (.inl ⟨a, b, hi, by simp [State.edgeSum]⟩)
    · exact .inr (.inr (.inl ⟨hi, by simp [State.drainData]⟩))
    · exact .inr (.inr (.inr (.inl ⟨v, hi, by simp⟩)))
    · exact .inr (.inr (.inr (.inr (.inr (by simp)))))
    · exact .inr (.inr (.inr (.inr (.inr (by simp)))))
  · exact .inr (.inr (.inr (.inr (.inl ⟨u, r, hr, he, hd, by simp⟩))))

/-- The admitted operation that a step performs is executed on the state without it. -/
theorem step_of_nextInstr {s : State} {i : Instr} (h : s.nextInstr = some i) : step s = exec i s.nextEvent.2 := by
  unfold State.nextInstr at h
  split at h
  · next op he hr =>
    split at h
    · next j hd => cases h; exact step_of_nextEvent_decodes (Prod.ext he rfl) hr hd
    · cases h
  all_goals cases h

/-- Outside reset, a step on a transaction that the decode procedure rejects handles it as illegal (R172). -/
theorem step_of_illegal {s : State} {u : BusTxn} {r : DecodeError} (hr : s.rst = false)
    (he : s.nextEvent.1 = some (.op (.bus u))) (hd : decodeBus u = .error r) :
    step s = .next (s.nextEvent.2.illegal u) := by
  rw [step_of_nextEvent_some (Prod.ext he rfl : s.nextEvent = (some (.op (.bus u)), s.nextEvent.2))]
  exact performOp_of_illegal (by simpa using hr) hd

/-- A step that performs an EDGE ORs the overflow of its sum into ACC_OVF (R92). -/
theorem step_edge_accOvf {s t : State} {a b : Bool} (hi : s.nextInstr = some (.edge a b)) (h : step s = .next t) :
    t.accOvf = (s.accOvf || accOverflows (s.edgeSum (phaseOf a b))) := by
  rw [step_of_nextInstr hi] at h
  cases h
  simp [State.edgeSum]

/-- A write-1-to-clear flag that goes from 1 to 0 had a 1 written at its place. -/
theorem afterW1C_cleared {flag bit : Bool} (hf : flag = true) (h : afterW1C flag bit = false) : bit = true := by
  cases bit
  · exact absurd hf (by simpa [afterW1C] using h)
  · rfl

/-- A write of QD_STATUS sets no flag. -/
@[simp] theorem afterW1C_of_false (bit : Bool) : afterW1C false bit = false := by
  cases bit <;> rfl

/-- Settles O8: an EDGE ORs its overflow into the flag, and no other step but the write of QD_STATUS and the release
touches it. -/
theorem accOvfIsSticky : Obligations.AccOvfIsSticky := by
  intro s t h
  refine ⟨fun hs ht => ?set, fun hs ht => ?cleared, fun a b hi hsum => ?overflow⟩
  case set =>
    rcases step_decoder_cases h with ⟨a, b, _, _, _, ho, _⟩ | ⟨a, b, hi, _, _, ho, _⟩ | ⟨_, _, _, _, ho, _⟩ |
      ⟨v, _, _, _, ho, _⟩ | ⟨u, r, _, _, _, _, _, ho, _⟩ | ⟨_, _, ho, _⟩
    case inr.inl =>
      rw [hs, ht, Bool.false_or] at ho
      exact ⟨a, b, hi, (accOverflows_iff _).mp ho.symm⟩
    all_goals simp [ht, hs] at ho
  case cleared =>
    rcases step_decoder_cases h with ⟨a, b, he, _⟩ | ⟨a, b, _, _, _, ho, _⟩ | ⟨_, _, _, _, ho, _⟩ |
      ⟨v, hi, _, _, ho, _⟩ | ⟨u, r, _, _, _, _, _, ho, _⟩ | ⟨_, _, ho, _⟩
    case inl => exact .inr ⟨a, b, he⟩
    case inr.inr.inr.inl => exact .inl ⟨v, hi, afterW1C_cleared hs (ho.symm.trans ht)⟩
    all_goals simp [ht, hs] at ho
  case overflow =>
    have ho : accOverflows (s.edgeSum (phaseOf a b)) = true := (accOverflows_iff _).mpr hsum
    rw [step_edge_accOvf hi h, ho, Bool.or_true]

/-- Settles O9: an illegal transaction raises the flag, and no other step but the write of QD_STATUS and the release
touches it. -/
theorem busErrIsSticky : Obligations.BusErrIsSticky := by
  intro s t h
  refine ⟨fun hs ht => ?set, fun hs ht => ?cleared, fun u r hr he hd => ?illegal⟩
  case set =>
    rcases step_decoder_cases h with ⟨a, b, _, _, _, _, hb⟩ | ⟨a, b, _, _, _, _, hb⟩ | ⟨_, _, _, _, _, hb⟩ |
      ⟨v, _, _, _, _, hb⟩ | ⟨u, r, hr, he, hd, _⟩ | ⟨_, _, _, hb⟩
    case inr.inr.inr.inr.inl => exact ⟨hr, u, r, he, hd⟩
    all_goals simp [ht, hs] at hb
  case cleared =>
    rcases step_decoder_cases h with ⟨a, b, he, _⟩ | ⟨a, b, _, _, _, _, hb⟩ | ⟨_, _, _, _, _, hb⟩ |
      ⟨v, hi, _, _, _, hb⟩ | ⟨u, r, _, _, _, _, _, _, hb⟩ | ⟨_, _, _, hb⟩
    case inl => exact .inr ⟨a, b, he⟩
    case inr.inr.inr.inl => exact .inl ⟨v, hi, afterW1C_cleared hs (hb.symm.trans ht)⟩
    all_goals simp [ht, hs] at hb
  case illegal =>
    rw [step_of_illegal hr he hd] at h
    cases h
    simp

/-- Settles O10: an EDGE and a release write both registers, a drain writes ACC, and every other step keeps both. -/
theorem phaseAndAccHaveTheirWritersOnly : Obligations.PhaseAndAccHaveTheirWritersOnly := by
  intro s t h
  rcases step_decoder_cases h with ⟨a, b, he, hp, ha, _⟩ | ⟨a, b, hi, hp, _⟩ | ⟨hi, hd, hp, ha, _⟩ |
    ⟨v, _, hp, ha, _⟩ | ⟨u, r, _, _, _, hp, ha, _⟩ | ⟨hp, ha, _⟩
  · exact ⟨.inr (.inr ⟨a, b, he, hp⟩), .inr (.inr (.inr ⟨a, b, he, ha⟩))⟩
  · exact ⟨.inr (.inl ⟨a, b, hi, hp⟩), .inr (.inl ⟨a, b, hi⟩)⟩
  · exact ⟨.inl hp, .inr (.inr (.inl ⟨hi, ha, hd⟩))⟩
  · exact ⟨.inl hp, .inl ha⟩
  · exact ⟨.inl hp, .inl ha⟩
  · exact ⟨.inl hp, .inl ha⟩

/-! The reset values (R36). -/

/-- Every register of the zero context reads 0; the two triggers hold nothing (R29, R35). -/
theorem Context.slot_zero (idx : BitVec 4) : Context.zero.slot idx = none ∨ Context.zero.slot idx = some 0#32 := by
  revert idx
  decide

/-- Settles O49: PHASE is the phase of the pins at the release, and the other registers are written out as 0. -/
theorem resetStateHasTheResetValues : Obligations.ResetStateHasTheResetValues :=
  ⟨⟨Config.qaAtRelease, Config.qbAtRelease, rfl⟩, rfl, rfl, rfl, rfl, rfl, Context.slot_zero⟩

end Sys2Proof.Machine

namespace Sys2Proof.Machine

/-! Conservation of ticks, one step at a time and over runs (R59). -/

/-- Settles O58: of the things a step does to the accounts, only an EDGE forms a new sum, and while ACC_OVF has not been 1
that sum fits ACC; a drain moves ACC to the drained sum, and a release empties all three. -/
theorem stepKeepsTickConservation : Obligations.StepKeepsTickConservation := by
  intro s t g hg h
  rcases account_step_cases (g := g) h with ⟨hafter, hacc, _⟩ | ⟨a, b, hafter, hacc, hovf⟩ | ⟨hafter, hacc, _⟩ |
    ⟨hafter, hacc, _⟩ <;> rw [hafter] <;> intro hsaw
  case inl => simp [hacc, Account.zero]
  all_goals have hbefore := hg (Bool.or_eq_false_iff.mp hsaw).1
  case inr.inl =>
    have hfits : accOverflows (s.edgeSum (phaseOf a b)) = false :=
      (Bool.or_eq_false_iff.mp (hovf.symm.trans (Bool.or_eq_false_iff.mp hsaw).2)).2
    rw [hacc, wrap_8_toInt_of_not_overflows hfits, State.edgeSum, ← add_assoc, hbefore]
  case inr.inr.inl => simpa [hacc] using hbefore
  case inr.inr.inr => simpa [hacc] using hbefore

/-- Settles O59: as O58, but ACC holds the sum of an EDGE modulo 2^ACC_WIDTH whether it fits or not. -/
theorem stepKeepsTickConservationModulo : Obligations.StepKeepsTickConservationModulo := by
  intro s t g hg h
  rcases account_step_cases (g := g) h with ⟨hafter, hacc, _⟩ | ⟨a, b, hafter, hacc, _⟩ | ⟨hafter, hacc, _⟩ |
    ⟨hafter, hacc, _⟩ <;> rw [hafter]
  case inl => simp [hacc, Account.zero]
  case inr.inl =>
    have hwrap := wrap_8_toInt_mod (s.edgeSum (phaseOf a b))
    rw [← hacc, State.edgeSum] at hwrap
    simp only [Account.ConservesModulo] at hg ⊢
    omega
  case inr.inr.inl => simpa [hacc] using hg
  case inr.inr.inr => simpa [hacc] using hg

/-- What every step keeps, every run keeps. -/
theorem Run.keeps {P : State → Account → Prop}
    (hstep : ∀ s t g, P s g → step s = .next t → P t (g.after s t))
    {s t : State} {g g' : Account} (hrun : Run s g t g') (hs : P s g) : P t g' := by
  induction hrun with
  | start => exact hs
  | more _ hnext ih => exact hstep _ _ _ ih hnext

/-- Settles O14: the law holds of the accounts at 0 and of ACC = 0, and every step keeps it (O58). -/
theorem drainsConserveTicks : Obligations.DrainsConserveTicks := by
  intro s t g hacc hrun
  exact hrun.keeps (P := fun s g => g.Conserves s) stepKeepsTickConservation fun _ => by simp [hacc, Account.zero]

/-- Settles O15: the law modulo 2^ACC_WIDTH holds of the accounts at 0 and of ACC = 0, and every step keeps it (O59). -/
theorem drainsConserveTicksModulo : Obligations.DrainsConserveTicksModulo := by
  intro s t g hacc hrun
  exact hrun.keeps (P := fun s g => g.ConservesModulo s) stepKeepsTickConservationModulo
    (by simp [hacc, Account.zero])

/-! Two operations, one after the other. -/

theorem execAll_pair {i j : Instr} {s m t : State} (hi : exec i s = .next m) (hj : exec j m = .next t) :
    execAll [i, j] s = .next t := by
  simp [execAll, hi, hj]

/-- The meaning of EDGE as a function of the state (R92). -/
def State.edge (s : State) (a b : Bool) : State :=
  { s.noteOverflow (s.edgeSum (phaseOf a b)) with acc := wrap 8 (s.edgeSum (phaseOf a b)), phase := phaseOf a b }

theorem exec_edge (a b : Bool) (s : State) : exec (.edge a b) s = .next (s.edge a b) := rfl

/-- The meaning of the drain as a function of the state (R93). -/
def State.drain (s : State) : State := { s.respond s.drainData with acc := 0 }

theorem exec_rdQdDrain (s : State) : exec .rdQdDrain s = .next s.drain := rfl

@[simp] theorem State.edge_phase (s : State) (a b : Bool) : (s.edge a b).phase = phaseOf a b := rfl
@[simp] theorem State.edge_acc (s : State) (a b : Bool) :
    (s.edge a b).acc = wrap 8 (s.acc.toInt + delta s.phase (phaseOf a b)) := rfl
@[simp] theorem State.edge_returned (s : State) (a b : Bool) : (s.edge a b).returned = s.returned := rfl
@[simp] theorem State.drain_phase (s : State) : s.drain.phase = s.phase := rfl
@[simp] theorem State.drain_acc (s : State) : s.drain.acc = 0 := rfl

/-- The data of a drain has the value that ACC had: the sign extension loses nothing (R93). -/
@[simp] theorem State.drain_returned (s : State) : s.drain.returned = s.acc.toInt :=
  BitVec.toInt_signExtend_of_le (by decide)

/-- Settles O13: with the EDGE first, the drain returns the whole sum as ACC holds it; with the drain first, it returns
ACC, and the delta, which always fits, stays in ACC. -/
theorem edgeAndDrainInEitherOrder : Obligations.EdgeAndDrainInEitherOrder := by
  intro a b s
  have hdelta := delta_bounds s.phase (phaseOf a b)
  have hleft : (wrap 8 (delta s.phase (phaseOf a b))).toInt = delta s.phase (phaseOf a b) :=
    toInt_ofInt_8 (by omega) (by omega)
  refine ⟨(s.edge a b).drain, s.drain.edge a b, execAll_pair (exec_edge a b s) (exec_rdQdDrain _),
    execAll_pair (exec_rdQdDrain s) (exec_edge a b _), rfl, ?modulo, fun hlo hhi => ?exact⟩
  case modulo =>
    simpa [hleft] using wrap_8_toInt_mod (s.acc.toInt + delta s.phase (phaseOf a b))
  case exact =>
    have hsum : (wrap 8 (s.acc.toInt + delta s.phase (phaseOf a b))).toInt = _ := toInt_ofInt_8 hlo hhi
    simp [hleft, hsum]

theorem State.edge_respond (s : State) (a b : Bool) (v : Word) : (s.respond v).edge a b = (s.edge a b).respond v := rfl

theorem State.edge_withCtx (s : State) (a b : Bool) (l : Loop) (c : Context) :
    (s.withCtx l c).edge a b = (s.edge a b).withCtx l c := by
  cases l <;> rfl

@[simp] theorem State.ctx_edge (s : State) (a b : Bool) (l : Loop) : (s.edge a b).ctx l = s.ctx l := by
  cases l <;> rfl

/-- Settles O56: an operation of a context sees and changes the state through that context and RDATA only, and an EDGE
keeps both. -/
theorem edgesCommuteWithPidOperations : Obligations.EdgesCommuteWithPidOperations := by
  intro a b i l s hl
  rcases exec_of_loop hl with ⟨f, hf⟩ | ⟨f, hf⟩
  · rw [execAll_pair (exec_edge a b s) (hf _), execAll_pair (hf s) (exec_edge a b _), State.ctx_edge, State.edge_respond]
  · rw [execAll_pair (exec_edge a b s) (hf _), execAll_pair (hf s) (exec_edge a b _), State.ctx_edge, State.edge_withCtx]

/-! Reads and writes done twice (R55). -/

/-- A read of a mapped offset but 0x00 returns data that do not depend on RDATA. -/
theorem exec_of_read {i : Instr} {a : Offset} {z : BitVec 2} (hread : encode i = .bus (.read a z)) (ha : a ≠ 0x00#8) :
    ∃ f : State → Word, (∀ s, exec i s = .next (s.respond (f s))) ∧ ∀ s v, f (s.respond v) = f s := by
  cases i <;> cases hread
  case rdQdDrain => exact absurd rfl ha
  case rdQdStatus => exact ⟨State.statusData, fun _ => rfl, fun _ _ => rfl⟩
  all_goals exact ⟨_, fun _ => rfl, fun _ _ => by simp only [State.ctx_respond]⟩

theorem afterW1C_afterW1C (flag bit : Bool) : afterW1C (afterW1C flag bit) bit = afterW1C flag bit := by
  cases bit <;> rfl

/-- A write but STEP is an idempotent function of the state, and it keeps RDATA (log entry 7). -/
theorem exec_of_plain_write {i : Instr} {a : Offset} {z : BitVec 2} {v : Word}
    (hwrite : encode i = .bus (.write a z v)) (hvel : a ≠ 0x98#8) (hpos : a ≠ 0xD8#8) :
    ∃ f : State → State, (∀ s, exec i s = .next (f s)) ∧ ∀ s, (f s).rdata = s.rdata ∧ f (f s) = f s := by
  cases i <;> cases hwrite
  case wrStep l =>
    cases l
    · exact absurd rfl hvel
    · exact absurd rfl hpos
  case wrQdStatus => exact ⟨_, fun _ => rfl, fun s => ⟨rfl, by simp only [afterW1C_afterW1C]⟩⟩
  all_goals exact ⟨_, fun _ => rfl, fun s => by simp [Context.commit]⟩

/-- Settles O38: the data of a read do not depend on RDATA, all that the read changes, and a write but STEP is
idempotent. -/
theorem readsAndPlainWritesAreIdempotent : Obligations.ReadsAndPlainWritesAreIdempotent := by
  refine ⟨fun i a z s t hread ha h => ?read, fun i a z v s t hwrite hvel hpos h => ?write⟩
  case read =>
    obtain ⟨f, hexec, hf⟩ := exec_of_read hread ha
    obtain rfl : s.respond (f s) = t := by simpa [hexec] using h
    exact ⟨rfl, by rw [hexec, hf]; rfl⟩
  case write =>
    obtain ⟨f, hexec, hf⟩ := exec_of_plain_write hwrite hvel hpos
    obtain rfl : f s = t := by simpa [hexec] using h
    exact ⟨(hf s).1, by rw [hexec, (hf s).2]⟩

/-! What performing an event leaves of the agents' lists and the schedule: all of them. Only the taking of the event
shortens them (R56). -/

/-- `t` has the agents' lists and the schedule of `s`. -/
abbrev State.SameInputs (s t : State) : Prop :=
  t.edges = s.edges ∧ t.host = s.host ∧ t.resets = s.resets ∧ t.sched = s.sched

theorem exec_sameInputs {i : Instr} {s t : State} (h : exec i s = .next t) : s.SameInputs t := by
  rcases exec_next_cases h with ⟨a, b, _, rfl⟩ | ⟨_, rfl⟩ | ⟨v, _, rfl⟩ | ⟨v, a, _, _, rfl⟩ | ⟨l, c, _, rfl, _⟩
  case inr.inr.inr.inr => simp [State.SameInputs]
  all_goals exact ⟨rfl, rfl, rfl, rfl⟩

theorem perform_sameInputs {ev : Event} {s t : State} (h : perform ev s = .next t) : s.SameInputs t := by
  rcases perform_next_cases h with ⟨e, _, rfl⟩ | ⟨op, _, _, rfl⟩ | ⟨op, i, _, _, _, hx⟩ | ⟨u, r, _, _, _, rfl⟩
  · cases e <;> exact ⟨rfl, rfl, rfl, rfl⟩
  · simp [State.SameInputs]
  · exact exec_sameInputs hx
  · simp [State.SameInputs]

theorem step_sameInputs {s t : State} (h : step s = .next t) : s.nextEvent.2.SameInputs t := by
  rcases step_next_cases h with ⟨_, rfl⟩ | ⟨ev, _, hp⟩
  · exact ⟨rfl, rfl, rfl, rfl⟩
  · exact perform_sameInputs hp

/-- What is still to come in `t` is an end part of what is to come in `s`. -/
abbrev State.InputsEndWith (s t : State) : Prop :=
  t.edges <:+ s.edges ∧ t.host <:+ s.host ∧ t.resets <:+ s.resets ∧ t.sched <:+ s.sched

theorem State.InputsEndWith.refl (s : State) : s.InputsEndWith s :=
  ⟨List.suffix_rfl, List.suffix_rfl, List.suffix_rfl, List.suffix_rfl⟩

theorem State.InputsEndWith.trans {s t u : State} (hst : s.InputsEndWith t) (htu : t.InputsEndWith u) :
    s.InputsEndWith u := by
  obtain ⟨hse, hsh, hsr, hss⟩ := hst
  obtain ⟨hte, hth, htr, hts⟩ := htu
  exact ⟨hte.trans hse, hth.trans hsh, htr.trans hsr, hts.trans hss⟩

/-- Taking an event drops the head of the schedule, and of the list of the agent it names. -/
theorem State.nextEvent_inputsEndWith (s : State) : s.InputsEndWith s.nextEvent.2 := by
  unfold State.nextEvent
  repeat' split
  all_goals simp [State.InputsEndWith, *]

theorem step_inputsEndWith {s t : State} (h : step s = .next t) : s.InputsEndWith t := by
  obtain ⟨he, hh, hr, hs⟩ := step_sameInputs h
  have htaken := s.nextEvent_inputsEndWith
  rwa [State.InputsEndWith, ← he, ← hh, ← hr, ← hs] at htaken

/-- Settles O53: every step leaves an end part of each list, and so does every run. -/
theorem agentsKeepTheirOwnOrder : Obligations.AgentsKeepTheirOwnOrder := by
  intro s t g h hrun
  exact hrun.keeps (P := fun u _ => s.InputsEndWith u)
    (fun _ _ _ hu hstep => hu.trans (step_inputsEndWith hstep)) (State.InputsEndWith.refl s)

/-! Every operation, event and step answers a next state (R170). -/

theorem exec_completes (i : Instr) (s : State) : ∃ t, exec i s = .next t := by
  cases i <;> exact ⟨_, rfl⟩

theorem performOp_completes (op : Operation) (s : State) : ∃ t, performOp op s = .next t := by
  cases hr : s.rst with
  | true => exact ⟨s.heldInReset op, by simp [performOp, hr]⟩
  | false =>
    cases hd : decode op with
    | ok i => rw [performOp_of_decode hr hd]; exact exec_completes i s
    | error r =>
      cases op with
      | edge ab => cases hd
      | bus u => exact ⟨s.illegal u, performOp_of_illegal hr hd⟩

theorem perform_completes (ev : Event) (s : State) : ∃ t, perform ev s = .next t := by
  cases ev with
  | reset e => exact ⟨s.applyReset e, rfl⟩
  | op op => exact performOp_completes op s

theorem step_completes (s : State) : ∃ t, step s = .next t := by
  match he : s.nextEvent with
  | (none, s') => exact ⟨s', step_of_nextEvent_none he⟩
  | (some ev, s') => simpa [step_of_nextEvent_some he] using perform_completes ev s'

theorem performAll_completes (evs : List Event) (s : State) : ∃ t, performAll evs s = .next t := by
  induction evs generalizing s with
  | nil => exact ⟨s, rfl⟩
  | cons ev more ih =>
    obtain ⟨t, ht⟩ := perform_completes ev s
    simpa [performAll, ht] using ih t

theorem run_succ_of_step {s t : State} (h : step s = .next t) (k : Nat) :
    Host.Core.run core (k + 1) s = Host.Core.run core k t := by
  simp [Host.Core.run, show core.step s = .next t from h]

/-! The host's slot comes after the slots before it (R56, R57). -/

theorem State.nextEvent_sched {s : State} {agent : Agent} {rest : List Agent} (hs : s.sched = agent :: rest) :
    s.nextEvent.2.sched = rest := by
  unfold State.nextEvent
  rw [hs]
  cases agent <;> dsimp only <;> split <;> rfl

/-- Another agent's slot leaves the host's transactions. -/
theorem State.nextEvent_host_of_other {s : State} {agent : Agent} {rest : List Agent} (hs : s.sched = agent :: rest)
    (hother : agent ≠ .host) : s.nextEvent.2.host = s.host := by
  unfold State.nextEvent
  rw [hs]
  cases agent
  case host => exact absurd rfl hother
  all_goals dsimp only; split <;> rfl

/-- Settles O55, by induction on the slots before the host's: each step uses up one and leaves the host's list. -/
theorem issuedTransactionIsNextWhenScheduled : Obligations.IssuedTransactionIsNextWhenScheduled := by
  intro s t more before rest hhost hsched hbefore
  induction before generalizing s with
  | nil => exact ⟨s, rfl, by rw [State.nextEvent_of_host hsched hhost]⟩
  | cons agent before ih =>
    obtain ⟨hother, hbefore⟩ := List.ne_and_not_mem_of_not_mem_cons hbefore
    obtain ⟨s', hstep⟩ := step_completes s
    obtain ⟨-, hhost', -, hsched'⟩ := step_sameInputs hstep
    rw [State.nextEvent_host_of_other hsched hother.symm, hhost] at hhost'
    rw [State.nextEvent_sched hsched] at hsched'
    obtain ⟨u, hrun, hu⟩ := ih s' hhost' hsched' hbefore
    exact ⟨u, (run_succ_of_step hstep before.length).trans hrun, hu⟩

/-! Bringing an event commutes with taking and with performing an earlier one, since neither looks at the ends of the
lists (log entry 2). -/

theorem State.respond_bring (s : State) (v : Word) (e : Event) : (s.bring e).respond v = (s.respond v).bring e := by
  rcases e with (_ | _) | _ <;> rfl

theorem State.withCtx_bring (s : State) (l : Loop) (c : Context) (e : Event) :
    (s.bring e).withCtx l c = (s.withCtx l c).bring e := by
  rcases e with (_ | _) | _ <;> cases l <;> rfl

@[simp] theorem State.ctx_bring (s : State) (l : Loop) (e : Event) : (s.bring e).ctx l = s.ctx l := by
  rcases e with (_ | _) | _ <;> cases l <;> rfl

@[simp] theorem State.bring_rst (s : State) (e : Event) : (s.bring e).rst = s.rst := by
  rcases e with (_ | _) | _ <;> rfl

theorem State.illegal_bring (s : State) (u : BusTxn) (e : Event) : (s.bring e).illegal u = (s.illegal u).bring e := by
  rcases e with (_ | _) | _ <;> cases u <;> rfl

theorem State.heldInReset_bring (s : State) (op : Operation) (e : Event) :
    (s.bring e).heldInReset op = (s.heldInReset op).bring e := by
  rcases e with (_ | _) | _ <;> rcases op with _ | (_ | _) <;> rfl

theorem State.applyReset_bring (s : State) (r : ResetEvent) (e : Event) :
    (s.bring e).applyReset r = (s.applyReset r).bring e := by
  rcases e with (_ | _) | _ <;> cases r <;> rfl

theorem exec_bring {i : Instr} {s t : State} (h : exec i s = .next t) (e : Event) :
    exec i (s.bring e) = .next (t.bring e) := by
  cases hl : i.loop? with
  | some l =>
    rcases exec_of_loop hl with ⟨f, hf⟩ | ⟨f, hf⟩
    · obtain rfl : s.respond (f (s.ctx l)) = t := by simpa [hf] using h
      rw [hf, State.ctx_bring, State.respond_bring]
    · obtain rfl : s.withCtx l (f (s.ctx l)) = t := by simpa [hf] using h
      rw [hf, State.ctx_bring, State.withCtx_bring]
  | none =>
    -- left are EDGE, the drain, and the read and the write of QD_STATUS
    cases i <;> cases hl
    all_goals
      cases h
      rcases e with (_ | _) | _ <;> rfl

theorem perform_bring {ev : Event} {s t : State} (h : perform ev s = .next t) (e : Event) :
    perform ev (s.bring e) = .next (t.bring e) := by
  rcases perform_next_cases h with ⟨r, rfl, rfl⟩ | ⟨op, rfl, hr, rfl⟩ | ⟨op, i, rfl, hr, hd, hx⟩ | ⟨u, r, rfl, hr, hd, rfl⟩
  · rw [← State.applyReset_bring]; rfl
  · simp [perform, performOp, hr, State.heldInReset_bring]
  · exact (performOp_of_decode (by simpa using hr) hd).trans (exec_bring hx e)
  · rw [← State.illegal_bring]; exact performOp_of_illegal (by simpa using hr) hd

theorem State.nextEvent_bring {s s' : State} {ev : Event} (h : s.nextEvent = (some ev, s')) (e : Event) :
    (s.bring e).nextEvent = (some ev, s'.bring e) := by
  unfold State.nextEvent at h
  repeat' split at h
  all_goals cases h
  all_goals rcases e with (_ | _) | _ <;> simp [State.nextEvent, State.bring, *]

/-! A loaded sequence of events is performed in its order (R56, R78). -/

theorem perform_load {ev : Event} {s t : State} (h : perform ev s = .next t) (evs : List Event) :
    perform ev (s.load evs) = .next (t.load evs) := by
  induction evs generalizing s t with
  | nil => exact h
  | cons e more ih => exact ih (perform_bring h e)

theorem State.nextEvent_load {s s' : State} {ev : Event} (h : s.nextEvent = (some ev, s')) (evs : List Event) :
    (s.load evs).nextEvent = (some ev, s'.load evs) := by
  induction evs generalizing s s' with
  | nil => exact h
  | cons e more ih => exact ih (State.nextEvent_bring h e)

/-- Nothing is to come. -/
abbrev State.Quiet (s : State) : Prop := s.edges = [] ∧ s.host = [] ∧ s.resets = [] ∧ s.sched = []

theorem State.SameInputs.quiet {s t : State} (h : s.SameInputs t) (hs : s.Quiet) : t.Quiet := by
  obtain ⟨he, hh, hr, hsch⟩ := h
  rwa [State.Quiet, he, hh, hr, hsch]

/-- An event brought where nothing was to come is the next, and leaves the state as it was. -/
theorem State.Quiet.nextEvent_bring {s : State} (hs : s.Quiet) (ev : Event) : (s.bring ev).nextEvent = (some ev, s) := by
  obtain ⟨he, hh, hr, hsch⟩ := hs
  obtain ⟨phase, acc, accOvf, busErr, vel, pos, rst, rdata, edges, host, resets, sched⟩ := s
  subst he hh hr hsch
  rcases ev with (_ | _) | _ <;> rfl

/-- With nothing else to come, a step takes the first loaded event and performs it. -/
theorem State.Quiet.step_load {s t : State} {ev : Event} (hs : s.Quiet) (h : perform ev s = .next t)
    (evs : List Event) : step (s.load (ev :: evs)) = .next (t.load evs) :=
  (step_of_nextEvent_some (State.nextEvent_load (hs.nextEvent_bring ev) evs)).trans (perform_load h evs)

theorem State.Quiet.run_load {s : State} (hs : s.Quiet) (evs : List Event) :
    Host.Core.run core evs.length (s.load evs) = performAll evs s := by
  induction evs generalizing s with
  | nil => rfl
  | cons ev more ih =>
    obtain ⟨t, ht⟩ := perform_completes ev s
    have hrest : Host.Core.run core more.length (t.load more) = performAll (ev :: more) s := by
      rw [ih ((perform_sameInputs ht).quiet hs), performAll, ht]
    exact (run_succ_of_step (hs.step_load ht more) more.length).trans hrest

/-- Settles O54: each step takes the first event of what is loaded, and performing it leaves the rest loaded. -/
theorem loadedEventsArePerformedInOrder : Obligations.LoadedEventsArePerformedInOrder := by
  intro s evs he hh hr hs
  exact ⟨State.Quiet.run_load ⟨he, hh, hr, hs⟩ evs, performAll_completes evs s⟩

/-! Byte lanes (R53). -/

/-- Settles O46: a lane is an extract of the word, and consecutive extracts append to one. -/
theorem byteLanesAreLittleEndian : Obligations.ByteLanesAreLittleEndian := by
  refine ⟨fun w k j hj => ?bit, fun w => ?word⟩
  case bit => simp [byteLane, hj]
  case word =>
    change w.extractLsb' 24 8 ++ w.extractLsb' 16 8 ++ w.extractLsb' 8 8 ++ w.extractLsb' 0 8 = w
    rw [BitVec.extractLsb'_append_extractLsb'_eq_extractLsb' (rfl : 24 = 16 + 8),
      BitVec.extractLsb'_append_extractLsb'_eq_extractLsb' (rfl : 16 = 8 + 8),
      BitVec.extractLsb'_append_extractLsb'_eq_extractLsb' (rfl : 8 = 0 + 8)]
    exact BitVec.extractLsb'_eq_self

end Sys2Proof.Machine

namespace Sys2Proof

/-! What the encoder writes, the decode procedure reads back (R70 to R75). -/

/-- A whole, aligned write is admitted as the row that its code finds, whatever its data (R75). -/
theorem decodeBus_write {a : Offset} {r : Row} (ha : a.extractLsb' 0 2 = 0b00#2)
    (hf : rows.find? (·.hits (1#1 ++ a)) = some r) (v : Word) :
    decodeBus (.write a 0b10#2 v) = .ok (r.build (loopOf (1#1 ++ a)) v) :=
  decodeBus_of_find rfl (by simpa using ha) hf

/-- For each operation and context the code is a fixed one, so the row it finds is computed; the data of a write stay
free. -/
theorem decode_encode (i : Instr) : decode (encode i) = .ok i := by
  cases i
  case edge a b => cases a <;> cases b <;> rfl
  case rdQdDrain | rdQdStatus => rfl
  case wrQdStatus v => exact (decodeBus_write rfl rfl v).trans rfl
  case wrTarget l v | wrMeas l v | wrKpSh l v | wrKiSh l v | wrKdSh l v | wrCfgCommit l v | wrStep l v =>
    cases l <;> exact (decodeBus_write rfl rfl v).trans rfl
  case rdTarget l | rdMeas l | rdKpSh l | rdKiSh l | rdKdSh l | rdKp l | rdKi l | rdKd l | rdInteg l | rdPrevErr l |
      rdPTerm l | rdITerm l | rdDTerm l | rdOutput l => cases l <;> rfl

/-- Settles O41, case by case of the operation and its context. -/
theorem decodeOfEncodeIsIdentity : Obligations.DecodeOfEncodeIsIdentity := decode_encode

/-- Settles O40: each code is the encoding of its operation, so this is O41 at eight operations. -/
theorem encodingsOfTheMapDecode : Obligations.EncodingsOfTheMapDecode :=
  ⟨decode_encode (.edge true false), decode_encode .rdQdDrain, decode_encode (.wrQdStatus 0xC#32),
    decode_encode (.wrTarget .velocity 0xA0000#32), decode_encode (.wrTarget .position 0xFFFF8000#32),
    decode_encode (.wrStep .velocity 0#32), decode_encode (.wrStep .position 0#32), decode_encode (.rdOutput .velocity)⟩

/-! A transaction is its code and its data, and the code is its row's pattern and the context bit (R71, R72). -/

theorem BusTxn.tc_write_bit (t : BusTxn) : t.tc.getLsbD 8 = t.isWrite :=
  (BitVec.getLsbD_append ..).trans (by simp)

theorem BusTxn.tc_offset_bits (t : BusTxn) : t.tc.extractLsb' 0 8 = t.offset :=
  BitVec.extractLsb'_append_eq_right

theorem BusTxn.ofTc_tc {t : BusTxn} (hz : t.sized = true) : BusTxn.ofTc t.tc t.wdataOr0 = t := by
  have hsize : t.size = 0b10#2 := by simpa [BusTxn.sized] using hz
  rw [BusTxn.ofTc, t.tc_write_bit, t.tc_offset_bits, ← hsize]
  cases t <;> rfl

/-- The context bit at its place TC[6] (R72). -/
def Loop.codeBit : Loop → TransCode
  | .velocity => 0x000#9
  | .position => 0x040#9

theorem Loop.codeBit_loopOf (tc : TransCode) : (loopOf tc).codeBit = tc &&& 0x040#9 := by
  rw [show 0x040#9 = BitVec.twoPow 9 6 from rfl, BitVec.and_twoPow, loopOf]
  split <;> rfl

/-- The code of row `r` for context `l`: the pattern, with the context bit where the mask leaves it free (R72, R75). -/
def Row.code (r : Row) (l : Loop) : TransCode := r.pattern ||| (l.codeBit &&& ~~~r.mask)

theorem Row.hits_iff {r : Row} {tc : TransCode} : r.hits tc = true ↔ tc &&& r.mask = r.pattern := by
  simp [Row.hits]

/-- No row's mask leaves a bit free but TC[6] (R75). -/
theorem rows_mask : ∀ r ∈ rows, 0x040#9 &&& ~~~r.mask = ~~~r.mask := by decide

/-- A row matches only its own code for the context that the code names: its mask fixes the other bits. -/
theorem Row.eq_code_of_hits {r : Row} (hr : r ∈ rows) {tc : TransCode} (h : r.hits tc = true) :
    tc = r.code (loopOf tc) := by
  calc tc = tc &&& (r.mask ||| ~~~r.mask) := by rw [BitVec.or_not_self, BitVec.and_allOnes]
    _ = r.pattern ||| (tc &&& (0x040#9 &&& ~~~r.mask)) := by
      rw [BitVec.and_or_distrib_left, Row.hits_iff.mp h, rows_mask r hr]
    _ = r.code (loopOf tc) := by rw [Row.code, Loop.codeBit_loopOf, BitVec.and_assoc]

/-- The map's rows (R74) and the encoder (R72, R29) name the same code for each operation. -/
theorem encode_build (l : Loop) (v : Word) {r : Row} (hr : r ∈ rows) :
    encode (r.build l v) = .bus (BusTxn.ofTc (r.code l) v) := by
  unfold rows at hr
  fin_cases hr <;> cases l <;> rfl

theorem encode_decodeEdge (ab : BitVec 2) : encode (decodeEdge ab) = .edge ab := by
  revert ab
  decide

/-- Settles O42: the row that matched gives back the code, and the code and the data give back the transaction. -/
theorem encodeOfDecodeIsIdentity : Obligations.EncodeOfDecodeIsIdentity := by
  intro op i h
  cases op with
  | edge ab =>
    cases h
    exact encode_decodeEdge ab
  | bus t =>
    obtain ⟨hz, -, r, hr, hit, rfl⟩ := decodeBus_ok h
    rw [encode_build _ _ hr, ← Row.eq_code_of_hits hr hit, BusTxn.ofTc_tc hz]

/-! No two rows match the same code (R75). -/

/-- Two rows that one code matches have patterns that agree where both masks look. -/
theorem Row.patterns_agree_of_hits {r q : Row} {tc : TransCode} (hr : r.hits tc = true) (hq : q.hits tc = true) :
    r.pattern &&& q.mask = q.pattern &&& r.mask := by
  rw [← Row.hits_iff.mp hr, ← Row.hits_iff.mp hq, BitVec.and_assoc, BitVec.and_comm r.mask, BitVec.and_assoc]

theorem rows_patterns_differ : rows.Pairwise fun r q => r.pattern &&& q.mask ≠ q.pattern &&& r.mask := by decide

/-- Settles O43: any two patterns differ at a bit where both masks look. -/
theorem rowsDoNotOverlap : Obligations.RowsDoNotOverlap :=
  ⟨rfl, rows_patterns_differ.imp fun hdiffer _ ⟨hr, hq⟩ => hdiffer (Row.patterns_agree_of_hits hr hq)⟩

/-! Which transactions no row matches, page by page of the window (R72, R75, R76). -/

theorem decodeBus_error_iff (t : BusTxn) :
    (∃ r, decodeBus t = .error r) ↔ t.sized = false ∨ t.aligned = false ∨ ∀ r ∈ rows, r.hits t.tc = false := by
  refine ⟨fun ⟨_, h⟩ => decodeBus_error h, fun h => ?_⟩
  cases hd : decodeBus t with
  | error r => exact ⟨r, rfl⟩
  | ok i =>
    obtain ⟨hz, ha, r, hr, hit, -⟩ := decodeBus_ok hd
    rcases h with h | h | h
    · exact absurd hz (by simp [h])
    · exact absurd ha (by simp [h])
    · exact absurd hit (by simp [h r hr])

/-- The aligned offset of word `p` of the decoder page, A[7] = 0 (R72). -/
def decoderOffset (p : BitVec 5) : Offset := 0#1 ++ p ++ 0#2

theorem decoderOffset_toNat (p : BitVec 5) : (decoderOffset p).toNat = 4 * p.toNat := by
  revert p
  decide

/-- The offset in numbers (R110). -/
theorem pidOffset_toNat (l : Loop) (idx : BitVec 4) :
    (pidOffset l idx).toNat = 0x80 + 0x40 * l.bit.toNat + 4 * idx.toNat := by
  cases l <;> revert idx <;> decide

theorem pidOffset_index (l : Loop) (idx : BitVec 4) : (pidOffset l idx).extractLsb' 2 4 = idx := by
  rw [pidOffset, BitVec.extractLsb'_append_eq_of_le (by decide)]
  exact BitVec.extractLsb'_append_eq_right

theorem Loop.exists_bit (b : BitVec 1) : ∃ l : Loop, l.bit = b :=
  match b with
  | 0#1 => ⟨.velocity, rfl⟩
  | 1#1 => ⟨.position, rfl⟩

/-- An aligned offset is a word of the decoder page or a register of a context: A[7] says which (R72). -/
theorem aligned_offset_cases {a : Offset} (ha : a.extractLsb' 0 2 = 0b00#2) :
    (∃ p, a = decoderOffset p) ∨ ∃ l idx, a = pidOffset l idx := by
  rcases BitVec.eq_zero_or_eq_one (a.extractLsb' 7 1) with hpage | hpage
  · refine .inl ⟨a.extractLsb' 2 5, ?_⟩
    rw [decoderOffset, ← hpage, ← ha,
      BitVec.extractLsb'_append_extractLsb'_eq_extractLsb' (rfl : 7 = 2 + 5),
      BitVec.extractLsb'_append_extractLsb'_eq_extractLsb' (rfl : 2 = 0 + 2), BitVec.extractLsb'_eq_self]
  · obtain ⟨l, hl⟩ := Loop.exists_bit (a.extractLsb' 6 1)
    refine .inr ⟨l, a.extractLsb' 2 4, ?_⟩
    rw [pidOffset, ← hpage, hl, ← ha,
      BitVec.extractLsb'_append_extractLsb'_eq_extractLsb' (rfl : 7 = 6 + 1),
      BitVec.extractLsb'_append_extractLsb'_eq_extractLsb' (rfl : 6 = 2 + 4),
      BitVec.extractLsb'_append_extractLsb'_eq_extractLsb' (rfl : 2 = 0 + 2), BitVec.extractLsb'_eq_self]

theorem no_row_hits_decoderOffset_iff (w : Bool) (p : BitVec 5) :
    (∀ r ∈ rows, r.hits (BitVec.ofBool w ++ decoderOffset p) = false) ↔ 2 ≤ p.toNat ∨ (w = true ∧ p.toNat = 0) := by
  revert w p
  decide

theorem no_row_hits_pidOffset_iff (w : Bool) (l : Loop) (idx : BitVec 4) :
    (∀ r ∈ rows, r.hits (BitVec.ofBool w ++ pidOffset l idx) = false) ↔
      (w = true ∧ 7 ≤ idx.toNat) ∨ (w = false ∧ (idx.toNat = 5 ∨ idx.toNat = 6)) := by
  cases l <;> revert w idx <;> decide

/-- Of the aligned transactions, no row matches exactly those that R75 and R172 list. -/
theorem no_row_hits_aligned_iff (w : Bool) {a : Offset} (ha : a.extractLsb' 0 2 = 0b00#2) :
    (∀ r ∈ rows, r.hits (BitVec.ofBool w ++ a) = false) ↔
      (0x08 ≤ a.toNat ∧ a.toNat ≤ 0x7C) ∨
      (w = true ∧ (a = 0x00#8 ∨ (0x80 ≤ a.toNat ∧ 7 ≤ (a.extractLsb' 2 4).toNat))) ∨
      (w = false ∧ 0x80 ≤ a.toNat ∧ ((a.extractLsb' 2 4).toNat = 5 ∨ (a.extractLsb' 2 4).toNat = 6)) := by
  have hzero : a = 0x00#8 ↔ a.toNat = 0 := BitVec.toNat_inj.symm
  rcases aligned_offset_cases ha with ⟨p, rfl⟩ | ⟨l, idx, rfl⟩
  · have hp := p.isLt
    rw [no_row_hits_decoderOffset_iff, hzero, decoderOffset_toNat]
    cases w <;> simp <;> omega
  · rw [no_row_hits_pidOffset_iff, hzero, pidOffset_toNat, pidOffset_index]
    cases w <;> simp <;> omega

/-- Settles O44: what passes the checks of size and alignment is rejected exactly where no row matches. -/
theorem illegalTransactionsAreThoseListed : Obligations.IllegalTransactionsAreThoseListed := by
  intro t
  have hsize : t.sized = false ↔ t.size ≠ 0b10#2 := by simp [BusTxn.sized]
  have halign : t.aligned = false ↔ t.offset.extractLsb' 0 2 ≠ 0b00#2 := by simp [BusTxn.aligned]
  rw [decodeBus_error_iff, hsize, halign]
  exact or_congr_right (or_congr_right' fun ha => no_row_hits_aligned_iff t.isWrite (not_not.mp ha))

end Sys2Proof

namespace Sys2Proof.Machine

/-! The pseudo-operations (R79). -/

theorem subSat_toInt (x y : Word) : (subSat x y).toInt = satW (x.toInt - y.toInt) := sat_32_toInt _

/-- Settles O39: the writes of an expansion replace one context again and again, so the last replacement is what is left;
the STEP of PID takes its error from the two values just written. -/
theorem pseudoOperationsDoWhatTheyName : Obligations.PseudoOperationsDoWhatTheyName := by
  refine ⟨fun l kp ki kd s => ?cfg, fun l x y s => ?pid, fun s => rfl⟩
  case cfg => simp [Pseudo.expand, execAll, exec, execWrKpSh, execWrKiSh, execWrKdSh, execWrCfgCommit, Context.commit]
  case pid =>
    refine ⟨_, ({ s.ctx l with target := x, meas := y } : Context).step, ?run, rfl, ?step, rfl, rfl, subSat_toInt x y⟩
    case run => simp [Pseudo.expand, execAll, exec, execWrTarget, execWrMeas, execWrStep]
    case step => simp [exec, execWrStep]

end Sys2Proof.Machine

namespace Sys2Proof.Machine

/-! Drains in time prevent overflow, one step at a time and over runs (R97, first bound). -/

theorem accOverflows_of_mem {n : Int} (hlo : -128 ≤ n) (hhi : n ≤ 127) : accOverflows n = false := by
  rw [← Bool.not_eq_true, accOverflows_iff]
  omega

/-- Settles O60: an EDGE moves ACC by at most 2 (R91), so while at most 63 EDGEs have come since the drain the sum stays
within 126 of 0 and fits; a drain and a release set ACC to 0, and the other steps neither move ACC nor set the flag. -/
theorem stepKeepsDrainIntervalBound : Obligations.StepKeepsDrainIntervalBound := by
  intro s t g ⟨hgap, hbound⟩ h
  rcases account_step_cases (g := g) h with ⟨hafter, hacc, hovf⟩ | ⟨a, b, hafter, hacc, hovf⟩ |
    ⟨hafter, hacc, hovf⟩ | ⟨hafter, hacc, hovf⟩ <;> rw [hafter]
  case inl => exact ⟨le_rfl, fun _ => by simp [hacc, hovf, Account.zero]⟩
  case inr.inl =>
    refine ⟨le_max_right _ _, fun hmax => ?_⟩
    obtain ⟨hmax, hnow⟩ := max_le_iff.mp hmax
    obtain ⟨hclear, hlo, hhi⟩ := hbound hmax
    have hdelta := delta_bounds s.phase (phaseOf a b)
    have hsum : s.edgeSum (phaseOf a b) = s.acc.toInt + delta s.phase (phaseOf a b) := rfl
    have hfits : accOverflows (s.edgeSum (phaseOf a b)) = false := accOverflows_of_mem (by omega) (by omega)
    rw [hovf, hclear, hfits, hacc, wrap_8_toInt_of_not_overflows hfits]
    push_cast
    exact ⟨rfl, by omega, by omega⟩
  case inr.inr.inl =>
    refine ⟨Nat.zero_le _, fun hmax => ?_⟩
    obtain ⟨hclear, -⟩ := hbound hmax
    simp [hacc, hovf, hclear]
  case inr.inr.inr =>
    refine ⟨hgap, fun hmax => ?_⟩
    obtain ⟨hclear, hlo, hhi⟩ := hbound hmax
    exact ⟨by simpa [hclear] using hovf, by rwa [hacc], by rwa [hacc]⟩

/-- Settles O16: the bound holds of the accounts at 0, of ACC = 0 and of ACC_OVF = 0, and every step keeps it (O60). -/
theorem drainsInTimePreventOverflow : Obligations.DrainsInTimePreventOverflow := by
  intro s t g hacc hovf hrun hmax
  obtain ⟨-, hbound⟩ := hrun.keeps (P := fun s g => g.DrainedInTime s) stepKeepsDrainIntervalBound
    ⟨le_rfl, fun _ => by simp [hacc, hovf, Account.zero]⟩
  exact (hbound hmax).left

/-! Sequences of EDGEs (R96). -/

/-- The meaning of a sequence of EDGEs as a function of the state. -/
def State.edgeAll (s : State) : List (Bool × Bool) → State
  | [] => s
  | (a, b) :: more => (s.edge a b).edgeAll more

theorem execAll_edgesOf (samples : List (Bool × Bool)) (s : State) :
    execAll (edgesOf samples) s = .next (s.edgeAll samples) := by
  induction samples generalizing s with
  | nil => rfl
  | cons p more ih => exact ih (s.edge p.1 p.2)

theorem State.edgeAll_phase (samples : List (Bool × Bool)) (s : State) :
    (s.edgeAll samples).phase = phasesFrom s.phase samples := by
  induction samples generalizing s with
  | nil => rfl
  | cons p more ih => exact ih (s.edge p.1 p.2)

theorem State.edgeAll_acc_mod (samples : List (Bool × Bool)) (s : State) :
    ((s.edgeAll samples).acc.toInt - (s.acc.toInt + deltaSum s.phase samples)) % 256 = 0 := by
  induction samples generalizing s with
  | nil => simp [State.edgeAll, deltaSum]
  | cons p more ih =>
    have hrest := ih (s.edge p.1 p.2)
    have hwrap := wrap_8_toInt_mod (s.acc.toInt + delta s.phase (phaseOf p.1 p.2))
    simp only [State.edgeAll, deltaSum, State.edge_phase, State.edge_acc] at hrest ⊢
    omega

/-- A delta is the difference of the phases, but for the forward wrap, 4 more, and the reverse wrap, 4 less (R91). -/
theorem delta_eq_phase_difference (old new : Phase) :
    delta old new = (new.toNat : Int) - old.toNat +
      4 * ((if old = 3#2 ∧ new = 0#2 then 1 else 0) - (if old = 0#2 ∧ new = 3#2 then 1 else 0)) := by
  revert old new
  decide

/-- The differences telescope, and the wraps add up. -/
theorem deltaSum_eq_phase_difference (samples : List (Bool × Bool)) (p : Phase) :
    deltaSum p samples = (phasesFrom p samples).toNat - p.toNat +
      4 * ((countSteps 3#2 0#2 p samples : Int) - countSteps 0#2 3#2 p samples) := by
  induction samples generalizing p with
  | nil => simp [deltaSum, phasesFrom, countSteps]
  | cons q more ih =>
    simp only [deltaSum, phasesFrom, countSteps, delta_eq_phase_difference, ih (phaseOf q.1 q.2)]
    push_cast
    ring

/-- Settles O11: the sequence is one function of the state, of which PHASE and ACC are known by induction, and the
closed form of the sum is a fact about the samples alone. -/
theorem edgesAddTheSumOfDeltas : Obligations.EdgesAddTheSumOfDeltas := by
  intro samples s
  exact ⟨s.edgeAll samples, execAll_edgesOf samples s, s.edgeAll_phase samples, s.edgeAll_acc_mod samples,
    deltaSum_eq_phase_difference samples s.phase⟩

/-! Pure rotations (R97, second bound). -/

@[simp] theorem State.edge_accOvf (s : State) (a b : Bool) :
    (s.edge a b).accOvf = (s.accOvf || accOverflows (s.acc.toInt + delta s.phase (phaseOf a b))) := rfl

/-- EDGEs of one delta, +1 or -1, are counted exactly as long as ACC has room for one tick each. -/
theorem State.edgeAll_of_allDeltas {d : Int} (hd : d = 1 ∨ d = -1) {samples : List (Bool × Bool)} {s : State}
    (hall : allDeltas d s.phase samples) (hroom : s.acc.toInt.natAbs + samples.length ≤ 127) :
    (s.edgeAll samples).accOvf = s.accOvf ∧
      (s.edgeAll samples).acc.toInt = s.acc.toInt + d * samples.length := by
  induction samples generalizing s with
  | nil => simp [State.edgeAll]
  | cons p more ih =>
    obtain ⟨hdelta, hmore⟩ := hall
    rw [List.length_cons] at hroom
    have hfits : accOverflows (s.acc.toInt + d) = false := accOverflows_of_mem (by omega) (by omega)
    have hacc : (s.edge p.1 p.2).acc.toInt = s.acc.toInt + d := by
      rw [State.edge_acc, hdelta, wrap_8_toInt_of_not_overflows hfits]
    have hovf : (s.edge p.1 p.2).accOvf = s.accOvf := by
      rw [State.edge_accOvf, hdelta, hfits, Bool.or_false]
    obtain ⟨hovf', hacc'⟩ := ih (s := s.edge p.1 p.2) hmore (by omega)
    refine ⟨hovf'.trans hovf, hacc'.trans ?_⟩
    rw [hacc, List.length_cons]
    push_cast
    ring

/-- Settles O12: from ACC = 0 there is room for 127 ticks in either direction. -/
theorem pureRotationCountsTo127 : Obligations.PureRotationCountsTo127 := by
  intro samples d s hd hall hlen hacc hovf
  have hzero : s.acc.toInt = 0 := by rw [hacc]; rfl
  obtain ⟨hovf', hacc'⟩ := State.edgeAll_of_allDeltas hd hall (by omega)
  exact ⟨s.edgeAll samples, execAll_edgesOf samples s, hovf'.trans hovf, by rw [hacc', hzero, zero_add]⟩

/-! QD_STATUS (R94, R95). -/

/-- Where the word that QD_STATUS reads as holds each field (R27). -/
theorem State.statusData_fields (s : State) :
    s.statusData.extractLsb' 0 2 = s.phase ∧ s.statusData.getLsbD 2 = s.accOvf ∧ s.statusData.getLsbD 3 = s.busErr ∧
      s.statusData.extractLsb' 4 28 = 0#28 := by
  unfold State.statusData
  generalize s.busErr = busErr, s.accOvf = accOvf, s.phase = phase
  revert busErr accOvf phase
  decide

/-- Settles O6: the operation returns the status word and does nothing else. -/
theorem statusReadShowsFields : Obligations.StatusReadShowsFields :=
  ⟨decode_encode .rdQdStatus, fun s => ⟨s.statusData, rfl, s.statusData_fields⟩⟩

theorem afterW1C_eq (flag bit : Bool) : afterW1C flag bit = (flag && !bit) := by
  cases flag <;> cases bit <;> rfl

/-- The meaning of a write of QD_STATUS: only the two bits of its data matter (R95). -/
theorem exec_wrQdStatus (v : Word) (s : State) : exec (.wrQdStatus v) s = .next { s with
    accOvf := s.accOvf && !(v.getLsbD 2), busErr := s.busErr && !(v.getLsbD 3) } := by
  rw [← afterW1C_eq, ← afterW1C_eq]
  rfl

/-- Settles O7: writing 0 and the other bits of the data are read off the meaning. -/
theorem statusWriteClearsWrittenOnes : Obligations.StatusWriteClearsWrittenOnes := by
  refine ⟨fun v => decode_encode (.wrQdStatus v), exec_wrQdStatus, fun s => ?zero, fun v w s hovf herr => ?other⟩
  case zero => simp [exec_wrQdStatus]
  case other => rw [exec_wrQdStatus, exec_wrQdStatus, hovf, herr]

/-! Phase, delta, EDGE and the drain (R90 to R93). -/

/-- Settles O1: the formula is the definition, and the four samples are computed from it. -/
theorem phaseFollowsGrayCycle : Obligations.PhaseFollowsGrayCycle := ⟨rfl, rfl, rfl, rfl, fun _ _ => rfl⟩

/-- Settles O2: the table is checked at its 16 entries; where neither wrap applies the definition takes the difference. -/
theorem deltaMatchesTable : Obligations.DeltaMatchesTable := by
  refine ⟨by decide, rfl, rfl, fun old new hforward hreverse => ?_⟩
  rw [delta, if_neg hforward, if_neg hreverse]

theorem accOverflows_eq (n : Int) : accOverflows n = (decide (n < -128) || decide (127 < n)) := by
  rw [Bool.eq_iff_iff, accOverflows_iff]
  simp

/-- Settles O3: the meaning of EDGE, with the overflow written in numbers. -/
theorem edgeCountsIntoAcc : Obligations.EdgeCountsIntoAcc := by
  refine ⟨fun ab => rfl, fun a b s => ?_⟩
  rw [Bool.or_assoc, ← accOverflows_eq]
  rfl

/-- A second drain returns the 0 that the first one left (R93). -/
theorem State.drain_drain (s : State) : s.drain.drain = { s with rdata := some 0#32, acc := 0#8 } := rfl

/-- No row maps a write of the drain's offset, whatever its data (R93, R75). -/
theorem decodeBus_write_drain (v : Word) : ∃ r, decodeBus (.write 0x00#8 0b10#2 v) = .error r := by
  refine (decodeBus_error_iff _).mpr (.inr (.inr ?_))
  rw [BusTxn.tc_write]
  decide

/-- Settles O5: the EDGE before the drain is in what is returned, and the EDGE after it adds its delta, which always
fits, to the 0 that the drain left. -/
theorem drainReadsAndZeroes : Obligations.DrainReadsAndZeroes := by
  refine ⟨decode_encode .rdQdDrain, fun s => ⟨rfl, s.drain_returned, ?second, fun hrst v => ?write⟩, fun a b s => ?edge⟩
  case second => exact execAll_pair (exec_rdQdDrain s) (s.drain_drain ▸ exec_rdQdDrain s.drain)
  case write =>
    obtain ⟨r, hr⟩ := decodeBus_write_drain v
    exact performOp_of_illegal hrst hr
  case edge =>
    have hdelta := delta_bounds s.phase (phaseOf a b)
    have hleft : (s.drain.edge a b).acc.toInt = delta s.phase (phaseOf a b) := by
      rw [State.edge_acc, State.drain_acc, State.drain_phase, show (0 : Acc).toInt = 0 from rfl, zero_add]
      exact toInt_ofInt_8 (by omega) (by omega)
    exact ⟨(s.edge a b).drain, s.drain.edge a b, execAll_pair (exec_edge a b s) (exec_rdQdDrain _), rfl, rfl,
      execAll_pair (exec_rdQdDrain s) (exec_edge a b _), hleft, rfl⟩

end Sys2Proof.Machine

namespace Sys2Proof.Machine

/-! The two shapes of an operation of a context, named: it returns a register of that context, or it replaces that
context. Each operation of 41_pid_access.md and the STEP is given its function once (R111 to R124, R144, R148 to R153). -/

/-- `i` returns the register `reg` of context `l` and does nothing else. -/
def ReadsRegister (i : Instr) (l : Loop) (reg : Context → Word) : Prop :=
  ∀ s : State, exec i s = .next (s.respond (reg (s.ctx l)))

/-- `i` replaces context `l` by `f` of it and does nothing else. -/
def UpdatesContext (i : Instr) (l : Loop) (f : Context → Context) : Prop :=
  ∀ s : State, exec i s = .next (s.withCtx l (f (s.ctx l)))

theorem rdTarget_reads (l : Loop) : ReadsRegister (.rdTarget l) l Context.target := fun _ => rfl
theorem rdMeas_reads (l : Loop) : ReadsRegister (.rdMeas l) l Context.meas := fun _ => rfl
theorem rdKpSh_reads (l : Loop) : ReadsRegister (.rdKpSh l) l Context.kpSh := fun _ => rfl
theorem rdKiSh_reads (l : Loop) : ReadsRegister (.rdKiSh l) l Context.kiSh := fun _ => rfl
theorem rdKdSh_reads (l : Loop) : ReadsRegister (.rdKdSh l) l Context.kdSh := fun _ => rfl
theorem rdKp_reads (l : Loop) : ReadsRegister (.rdKp l) l Context.kp := fun _ => rfl
theorem rdKi_reads (l : Loop) : ReadsRegister (.rdKi l) l Context.ki := fun _ => rfl
theorem rdKd_reads (l : Loop) : ReadsRegister (.rdKd l) l Context.kd := fun _ => rfl
theorem rdInteg_reads (l : Loop) : ReadsRegister (.rdInteg l) l Context.integ := fun _ => rfl
theorem rdPrevErr_reads (l : Loop) : ReadsRegister (.rdPrevErr l) l Context.prevErr := fun _ => rfl
theorem rdPTerm_reads (l : Loop) : ReadsRegister (.rdPTerm l) l Context.pTerm := fun _ => rfl
theorem rdITerm_reads (l : Loop) : ReadsRegister (.rdITerm l) l Context.iTerm := fun _ => rfl
theorem rdDTerm_reads (l : Loop) : ReadsRegister (.rdDTerm l) l Context.dTerm := fun _ => rfl
theorem rdOutput_reads (l : Loop) : ReadsRegister (.rdOutput l) l Context.output := fun _ => rfl

theorem wrTarget_updates (l : Loop) (v : Word) :
    UpdatesContext (.wrTarget l v) l fun c => { c with target := v } := fun _ => rfl
theorem wrMeas_updates (l : Loop) (v : Word) :
    UpdatesContext (.wrMeas l v) l fun c => { c with meas := v } := fun _ => rfl
theorem wrKpSh_updates (l : Loop) (v : Word) :
    UpdatesContext (.wrKpSh l v) l fun c => { c with kpSh := v } := fun _ => rfl
theorem wrKiSh_updates (l : Loop) (v : Word) :
    UpdatesContext (.wrKiSh l v) l fun c => { c with kiSh := v } := fun _ => rfl
theorem wrKdSh_updates (l : Loop) (v : Word) :
    UpdatesContext (.wrKdSh l v) l fun c => { c with kdSh := v } := fun _ => rfl
theorem wrCfgCommit_updates (l : Loop) (v : Word) : UpdatesContext (.wrCfgCommit l v) l Context.commit := fun _ => rfl
theorem wrStep_updates (l : Loop) (v : Word) : UpdatesContext (.wrStep l v) l Context.step := fun _ => rfl

/-! Two operations of contexts, one after the other. -/

theorem UpdatesContext.then_read {i j : Instr} {l : Loop} {f : Context → Context} {reg : Context → Word}
    (hi : UpdatesContext i l f) (hj : ReadsRegister j l reg) (s : State) :
    execAll [i, j] s = .next ((s.withCtx l (f (s.ctx l))).respond (reg (f (s.ctx l)))) := by
  rw [execAll_pair (hi s) (hj _), State.ctx_withCtx_same]

theorem UpdatesContext.then_update {i j : Instr} {l : Loop} {f g : Context → Context}
    (hi : UpdatesContext i l f) (hj : UpdatesContext j l g) (s : State) :
    execAll [i, j] s = .next (s.withCtx l (g (f (s.ctx l)))) := by
  rw [execAll_pair (hi s) (hj _), State.ctx_withCtx_same, State.withCtx_withCtx_same]

/-- Updates of one context commute when their functions do; updates of different contexts always commute. -/
theorem UpdatesContext.comm {i j : Instr} {l m : Loop} {f g : Context → Context} (hi : UpdatesContext i l f)
    (hj : UpdatesContext j m g) (hfg : ∀ c, g (f c) = f (g c)) (s : State) :
    execAll [i, j] s = execAll [j, i] s := by
  by_cases hlm : l = m
  · subst hlm
    rw [hi.then_update hj, hj.then_update hi, hfg]
  · rw [execAll_pair (hi s) (hj _), execAll_pair (hj s) (hi _), s.ctx_withCtx_other (Ne.symm hlm),
      s.ctx_withCtx_other hlm, State.withCtx_comm hlm]

/-- Settles O32: a shadow is no input of the STEP and no register that it writes, so the two functions of a context
commute. -/
theorem stagedGainsDoNotReachTheStep : Obligations.StagedGainsDoNotReachTheStep :=
  fun l m v w s => ⟨(wrKpSh_updates l v).comm (wrStep_updates m w) (fun _ => rfl) s,
    (wrKiSh_updates l v).comm (wrStep_updates m w) (fun _ => rfl) s,
    (wrKdSh_updates l v).comm (wrStep_updates m w) (fun _ => rfl) s⟩

/-- Settles O30: a commit leaves the shadows, so a second one copies the same values. -/
theorem commitReplacesTheGains : Obligations.CommitReplacesTheGains :=
  ⟨fun v => ⟨decode_encode (.wrCfgCommit .velocity v), decode_encode (.wrCfgCommit .position v)⟩,
    fun l v w s => ⟨wrCfgCommit_updates l v s, (wrCfgCommit_updates l v).then_update (wrCfgCommit_updates l w) s⟩⟩

/-- Settles O33, register by register. -/
theorem inputAndShadowReadsReturnTheRegister : Obligations.InputAndShadowReadsReturnTheRegister :=
  fun l s => ⟨rdTarget_reads l s, rdMeas_reads l s, rdKpSh_reads l s, rdKiSh_reads l s, rdKdSh_reads l s⟩

/-- Settles O34, register by register. -/
theorem gainAndResultReadsReturnTheRegister : Obligations.GainAndResultReadsReturnTheRegister :=
  fun l s => ⟨rdKp_reads l s, rdKi_reads l s, rdKd_reads l s, rdInteg_reads l s, rdPrevErr_reads l s, rdPTerm_reads l s,
    rdITerm_reads l s, rdDTerm_reads l s, rdOutput_reads l s⟩

/-- Settles O35: the read takes its register from the context that the write left. -/
theorem inputAndShadowWritesStoreTheWord : Obligations.InputAndShadowWritesStoreTheWord :=
  fun l v s => ⟨wrTarget_updates l v s, wrMeas_updates l v s, wrKpSh_updates l v s, wrKiSh_updates l v s,
    wrKdSh_updates l v s, (wrTarget_updates l v).then_read (rdTarget_reads l) s,
    (wrMeas_updates l v).then_read (rdMeas_reads l) s, (wrKpSh_updates l v).then_read (rdKpSh_reads l) s,
    (wrKiSh_updates l v).then_read (rdKiSh_reads l) s, (wrKdSh_updates l v).then_read (rdKdSh_reads l) s⟩

/-! The register window: what stands at each index of a context (R110, R29). -/

/-- An index is that of a trigger, which holds nothing, or the read at it returns the register of that index. -/
theorem read_at_index (l : Loop) : ∀ idx : BitVec 4,
    ((idx.toNat = 5 ∨ idx.toNat = 6) ∧ ∀ c : Context, c.slot idx = none) ∨
    ∃ i reg, encode i = rdPid l idx ∧ ReadsRegister i l reg ∧ ∀ c : Context, c.slot idx = some (reg c)
  | 0#4 => .inr ⟨_, _, rfl, rdTarget_reads l, fun _ => rfl⟩
  | 1#4 => .inr ⟨_, _, rfl, rdMeas_reads l, fun _ => rfl⟩
  | 2#4 => .inr ⟨_, _, rfl, rdKpSh_reads l, fun _ => rfl⟩
  | 3#4 => .inr ⟨_, _, rfl, rdKiSh_reads l, fun _ => rfl⟩
  | 4#4 => .inr ⟨_, _, rfl, rdKdSh_reads l, fun _ => rfl⟩
  | 5#4 => .inl ⟨.inl rfl, fun _ => rfl⟩
  | 6#4 => .inl ⟨.inr rfl, fun _ => rfl⟩
  | 7#4 => .inr ⟨_, _, rfl, rdKp_reads l, fun _ => rfl⟩
  | 8#4 => .inr ⟨_, _, rfl, rdKi_reads l, fun _ => rfl⟩
  | 9#4 => .inr ⟨_, _, rfl, rdKd_reads l, fun _ => rfl⟩
  | 10#4 => .inr ⟨_, _, rfl, rdInteg_reads l, fun _ => rfl⟩
  | 11#4 => .inr ⟨_, _, rfl, rdPrevErr_reads l, fun _ => rfl⟩
  | 12#4 => .inr ⟨_, _, rfl, rdPTerm_reads l, fun _ => rfl⟩
  | 13#4 => .inr ⟨_, _, rfl, rdITerm_reads l, fun _ => rfl⟩
  | 14#4 => .inr ⟨_, _, rfl, rdDTerm_reads l, fun _ => rfl⟩
  | 15#4 => .inr ⟨_, _, rfl, rdOutput_reads l, fun _ => rfl⟩
  | .ofFin ⟨_ + 16, hlt⟩ => absurd hlt (by omega)

/-- `c` with `v` in the host-writable register of index `idx`; the other indices take no write (R110). -/
def Context.setSlot (c : Context) (idx : BitVec 4) (v : Word) : Context :=
  match idx.toNat with
  | 0 => { c with target := v }
  | 1 => { c with meas := v }
  | 2 => { c with kpSh := v }
  | 3 => { c with kiSh := v }
  | 4 => { c with kdSh := v }
  | _ => c

theorem writable_index_cases {idx : BitVec 4} (h : idx.toNat ≤ 4) :
    idx = 0#4 ∨ idx = 1#4 ∨ idx = 2#4 ∨ idx = 3#4 ∨ idx = 4#4 := by
  revert idx
  decide

theorem Context.slot_setSlot_same {idx : BitVec 4} (h : idx.toNat ≤ 4) (c : Context) (v : Word) :
    (c.setSlot idx v).slot idx = some v := by
  rcases writable_index_cases h with rfl | rfl | rfl | rfl | rfl <;> rfl

theorem Context.slot_setSlot_other {idx j : BitVec 4} (h : j ≠ idx) (c : Context) (v : Word) :
    (c.setSlot idx v).slot j = c.slot j := by
  have hne : j.toNat ≠ idx.toNat := fun heq => h (BitVec.eq_of_toNat_eq heq)
  unfold setSlot
  split
  case h_6 => rfl
  -- The two contexts differ in the register of `idx` alone, and there `hne` excludes `j`.
  all_goals
    unfold slot
    split <;> simp_all

theorem write_at_index (l : Loop) (v : Word) {idx : BitVec 4} (h : idx.toNat ≤ 4) :
    ∃ i, encode i = wrPid l idx v ∧ UpdatesContext i l fun c => c.setSlot idx v := by
  rcases writable_index_cases h with rfl | rfl | rfl | rfl | rfl
  · exact ⟨_, rfl, wrTarget_updates l v⟩
  · exact ⟨_, rfl, wrMeas_updates l v⟩
  · exact ⟨_, rfl, wrKpSh_updates l v⟩
  · exact ⟨_, rfl, wrKiSh_updates l v⟩
  · exact ⟨_, rfl, wrKdSh_updates l v⟩

/-- Outside reset, the encoding of an operation performs it. -/
theorem performOp_of_encode {op : Operation} {i : Instr} {s : State} (hr : s.rst = false) (h : encode i = op) :
    performOp op s = exec i s :=
  performOp_of_decode hr (h ▸ decode_encode i)

/-- Outside reset, a write of an index 7 to 15 or a read of a trigger is illegal: no row maps it (R75, R172). -/
theorem performOp_pidOffset_illegal {t : BusTxn} {l : Loop} {idx : BitVec 4} {s : State} (hr : s.rst = false)
    (ht : t.offset = pidOffset l idx)
    (h : (t.isWrite = true ∧ 7 ≤ idx.toNat) ∨ (t.isWrite = false ∧ (idx.toNat = 5 ∨ idx.toNat = 6))) :
    performOp (.bus t) s = .next (s.illegal t) := by
  have hrows := (no_row_hits_pidOffset_iff t.isWrite l idx).mpr h
  rw [← ht] at hrows
  obtain ⟨r, hd⟩ := (decodeBus_error_iff t).mpr (.inr (.inr hrows))
  exact performOp_of_illegal hr hd

/-- Settles O36: the offset is that of the encoder, which names the operation of a mapped index; at the others no row
matches. -/
theorem windowShowsTheContextRegisters : Obligations.WindowShowsTheContextRegisters := by
  intro l idx v s a hr ha
  obtain rfl : a = pidOffset l idx := BitVec.eq_of_toNat_eq (ha.trans (pidOffset_toNat l idx).symm)
  have hread := read_at_index l idx
  refine ⟨fun r hslot => ?read, fun hslot => ?trigger, fun hidx => ?write, fun hidx => ?readOnly⟩
  case read =>
    obtain ⟨-, hnone⟩ | ⟨i, reg, henc, hi, hreg⟩ := hread
    · exact absurd hslot (by simp [hnone])
    · obtain rfl : reg (s.ctx l) = r := by simpa [hreg] using hslot
      exact (performOp_of_encode hr henc).trans (hi s)
  case trigger =>
    obtain ⟨hidx, -⟩ | ⟨i, reg, -, -, hreg⟩ := hread
    · exact performOp_pidOffset_illegal hr rfl (.inr ⟨rfl, hidx⟩)
    · exact absurd hslot (by simp [hreg])
  case write =>
    obtain ⟨i, henc, hi⟩ := write_at_index l v hidx
    exact ⟨(s.ctx l).setSlot idx v, (performOp_of_encode hr henc).trans (hi s), Context.slot_setSlot_same hidx _ v,
      fun j hj => Context.slot_setSlot_other hj _ v⟩
  case readOnly => exact performOp_pidOffset_illegal hr rfl (.inl ⟨rfl, hidx⟩)

end Sys2Proof.Machine

namespace Sys2Proof.Machine

/-! The PID arithmetic as values (R141 to R143): what a word of each function is worth. -/

/-- A word already lies in the range of `sat_32`, so saturation keeps its value (R12). -/
theorem satW_word_toInt (x : Word) : satW x.toInt = x.toInt := by
  obtain ⟨hlo, hhi⟩ := word_toInt_bounds x
  exact clamp_of_mem hlo hhi

theorem mulQ_toInt (k x : Word) : (mulQ k x).toInt = satW ((k.toInt * x.toInt).fdiv 65536) := sat_32_toInt _

theorem integNext_eq (i e : Word) :
    integNext i e = min (max (i.toInt + e.toInt) (-65536000)) 65536000 := by
  rw [integNext, clamp, ilim_eq]

@[simp] theorem subSat_self (x : Word) : subSat x x = 0#32 := by
  rw [subSat, sub_self]
  rfl

@[simp] theorem mulQ_zero_left (x : Word) : mulQ 0#32 x = 0#32 := by
  rw [mulQ, BitVec.toInt_zero, zero_mul]
  rfl

theorem mulQ_one_left (x : Word) : mulQ 0x00010000#32 x = x := by
  apply BitVec.eq_of_toInt_eq
  rw [mulQ_toInt, show (0x00010000#32).toInt = 65536 from rfl, Int.mul_fdiv_cancel_left _ (by decide), satW_word_toInt]

/-- Settles O17: `sat_32` as a value, and the rule's two examples computed. -/
theorem differenceSaturates : Obligations.DifferenceSaturates :=
  ⟨subSat_toInt, by decide, by decide⟩

/-- Settles O18: `q` and `r` are the quotient and the remainder of the division toward minus infinity. -/
theorem productFloorsThenSaturates : Obligations.ProductFloorsThenSaturates := by
  refine ⟨fun k x => ?floor, by decide, by decide, mulQ_one_left, mulQ_zero_left⟩
  case floor =>
    exact ⟨(k.toInt * x.toInt).fdiv 65536, (k.toInt * x.toInt).fmod 65536, (Int.fdiv_mul_add_fmod _ _).symm,
      Int.fmod_nonneg_of_pos _ (by decide), Int.fmod_lt_of_pos _ (by decide), mulQ_toInt k x⟩

/-- The product of two words fits 64 bits: its magnitude is at most 2^62. -/
theorem wideProduct_toInt (k x : Word) : (k.signExtend 64 * x.signExtend 64).toInt = k.toInt * x.toInt := by
  have hlo : -2 ^ 62 ≤ k.toInt * x.toInt := BitVec.le_toInt_mul_toInt
  have hhi : k.toInt * x.toInt ≤ 2 ^ 62 := BitVec.toInt_mul_toInt_le
  rw [BitVec.toInt_mul, BitVec.toInt_signExtend_of_le (by decide), BitVec.toInt_signExtend_of_le (by decide)]
  exact Int.bmod_eq_of_le (by omega) (by omega)

/-- Settles O19: the wide product is exact, and the arithmetic shift right is the division toward minus infinity. -/
theorem productIsShiftedWideProduct : Obligations.ProductIsShiftedWideProduct := by
  intro k x
  rw [mulQ_toInt, BitVec.toInt_sshiftRight, wideProduct_toInt, Int.shiftRight_eq_div_pow,
    Int.fdiv_eq_ediv_of_nonneg _ (by decide)]
  rfl

/-- Settles O20: with the limits in numbers, both clauses at +ILIM are facts about `min` and `max`. -/
theorem integralClampsInclusively : Obligations.IntegralClampsInclusively := by
  refine ⟨ilim_eq, fun i e => ⟨integNext_eq i e, wrap_integNext_toInt i e⟩, fun i e hi he => ?up,
    fun i e hi he => ?down⟩
  all_goals
    rw [integNext_eq, hi]
    omega

/-! What a STEP leaves in each register of its context that it writes, as a value (R144). -/

namespace Context

variable (c : Context)

theorem step_prevErr_toInt : c.step.prevErr.toInt = satW (c.target.toInt - c.meas.toInt) := subSat_toInt _ _

theorem step_integ_toInt :
    c.step.integ.toInt = min (max (c.integ.toInt + c.step.prevErr.toInt) (-65536000)) 65536000 :=
  (wrap_integNext_toInt _ _).trans (integNext_eq _ _)

theorem step_pTerm_toInt : c.step.pTerm.toInt = satW ((c.kp.toInt * c.step.prevErr.toInt).fdiv 65536) := mulQ_toInt _ _

theorem step_iTerm_toInt : c.step.iTerm.toInt = satW ((c.ki.toInt * c.step.integ.toInt).fdiv 65536) := mulQ_toInt _ _

theorem step_dTerm_toInt : c.step.dTerm.toInt =
    satW ((c.kd.toInt * satW (c.step.prevErr.toInt - c.prevErr.toInt)).fdiv 65536) := by
  rw [← subSat_toInt]
  exact mulQ_toInt _ _

theorem step_output_toInt :
    c.step.output.toInt = satW (c.step.pTerm.toInt + c.step.iTerm.toInt + c.step.dTerm.toInt) := sat_32_toInt _

end Context

/-- Settles O21: the new context is `Context.step` of the old one, whose registers are known as values. -/
theorem stepComputesThePidTerms : Obligations.StepComputesThePidTerms := by
  refine ⟨fun v => ⟨decode_encode (.wrStep .velocity v), decode_encode (.wrStep .position v)⟩, fun l v s => ?_⟩
  generalize hc : s.ctx l = c
  have hexec (w : Word) : exec (.wrStep l w) s = .next (s.withCtx l c.step) := hc ▸ wrStep_updates l w s
  exact ⟨c.step, hexec v, c.step_prevErr_toInt, c.step_integ_toInt, c.step_pTerm_toInt, c.step_iTerm_toInt,
    c.step_dTerm_toInt, c.step_output_toInt, rfl, fun w => (hexec w).trans (hexec v).symm⟩

/-- What a STEP answers for its own context. -/
theorem exec_wrStep_next {l : Loop} {v : Word} {s t : State} (h : exec (.wrStep l v) s = .next t) :
    t = s.withCtx l (s.ctx l).step ∧ t.ctx l = (s.ctx l).step := by
  rw [wrStep_updates l v s] at h
  cases h
  exact ⟨rfl, s.ctx_withCtx_same l _⟩

/-- The bound of R32 in numbers. -/
theorem Context.integBounded_iff (c : Context) :
    c.IntegBounded ↔ -65536000 ≤ c.integ.toInt ∧ c.integ.toInt ≤ 65536000 := by
  rw [Context.IntegBounded, ilim_eq]

/-! The corner cases of R144: gains of 0, and an error of 0. -/

/-- With gains of 0 the three products are 0, and so is their sum. -/
theorem Context.step_terms_of_zero_gains {c : Context} (hp : c.kp = 0#32) (hi : c.ki = 0#32) (hd : c.kd = 0#32) :
    c.step.pTerm = 0#32 ∧ c.step.iTerm = 0#32 ∧ c.step.dTerm = 0#32 ∧ c.step.output = 0#32 := by
  have hpTerm : c.nextPTerm = 0#32 := by rw [nextPTerm, hp, mulQ_zero_left]
  have hiTerm : c.nextITerm = 0#32 := by rw [nextITerm, hi, mulQ_zero_left]
  have hdTerm : c.nextDTerm = 0#32 := by rw [nextDTerm, hd, mulQ_zero_left]
  exact ⟨hpTerm, hiTerm, hdTerm, show c.nextOutput = 0#32 by rw [nextOutput, hpTerm, hiTerm, hdTerm]; rfl⟩

theorem Context.step_prevErr_of_target_eq_meas {c : Context} (h : c.target = c.meas) : c.step.prevErr = 0#32 := by
  change subSat c.target c.meas = 0#32
  rw [h, subSat_self]

/-- A bounded integral to which an error of 0 is added is its own clamp. -/
theorem Context.step_integ_of_target_eq_meas {c : Context} (h : c.target = c.meas) (hbound : c.IntegBounded) :
    c.step.integ = c.integ := by
  rw [Context.integBounded_iff] at hbound
  apply BitVec.eq_of_toInt_eq
  rw [c.step_integ_toInt, Context.step_prevErr_of_target_eq_meas h, BitVec.toInt_zero, add_zero]
  omega

/-- Settles O23, for the context that the STEP leaves. -/
theorem zeroGainsGiveZeroOutput : Obligations.ZeroGainsGiveZeroOutput := by
  refine ⟨fun l v s hp hi hd => ?gains, fun l v s heq hbound => ?error⟩
  case gains =>
    refine ⟨_, wrStep_updates l v s, ?_⟩
    rw [State.ctx_withCtx_same]
    obtain ⟨hpTerm, hiTerm, hdTerm, houtput⟩ := Context.step_terms_of_zero_gains hp hi hd
    exact ⟨hpTerm, hiTerm, hdTerm, houtput, Context.step_prevErr_toInt _, Context.step_integ_toInt _⟩
  case error =>
    refine ⟨_, wrStep_updates l v s, ?_⟩
    rw [State.ctx_withCtx_same]
    exact ⟨Context.step_prevErr_of_target_eq_meas heq, Context.step_integ_of_target_eq_meas heq hbound⟩

/-! The bound of I_TERM (R154). -/

/-- The bound `|k| * b` of the exact quotient is a whole number, so the floor keeps it. -/
theorem abs_fdiv_mul_le {k x b : Int} (hx : |x| ≤ b * 65536) : |(k * x).fdiv 65536| ≤ |k| * b := by
  have hprod : |k * x| ≤ |k| * b * 65536 := by
    rw [abs_mul, mul_assoc]
    exact mul_le_mul_of_nonneg_left hx (abs_nonneg k)
  rw [abs_le] at hprod
  rw [abs_le, Int.fdiv_eq_ediv_of_nonneg _ (by decide)]
  omega

theorem abs_satW_le {q b : Int} (hq : |q| ≤ b) : |satW q| ≤ min 2147483648 b := by
  rw [le_min_iff, abs_le, abs_le]
  rw [abs_le] at hq
  unfold satW
  omega

theorem Context.step_abs_iTerm_le (c : Context) :
    |c.step.iTerm.toInt| ≤ min 2147483648 (|c.ki.toInt| * Config.integLimit) := by
  have hinteg : |c.step.integ.toInt| ≤ Config.integLimit * 65536 :=
    abs_le.mpr (c.step.integBounded_iff.mp c.step_integBounded)
  rw [c.step_iTerm_toInt]
  exact abs_satW_le (abs_fdiv_mul_le hinteg)

/-- Settles O25: both bounds are those of `Context.step`. -/
theorem stepBoundsIntegralAndItsTerm : Obligations.StepBoundsIntegralAndItsTerm := by
  intro l v s t h
  obtain ⟨-, hctx⟩ := exec_wrStep_next h
  obtain ⟨hlo, hhi⟩ := (Context.integBounded_iff _).mp (s.ctx l).step_integBounded
  rw [hctx, Int.natCast_natAbs, Int.natCast_natAbs]
  exact ⟨hlo, hhi, (s.ctx l).step_abs_iTerm_le⟩

/-! The two contexts (R147, R28). -/

/-- Settles O22: a STEP replaces its context by a function of that context alone; the other context is as O31 says,
and the updates of different contexts commute. -/
theorem stepsOfTheContextsCommute : Obligations.StepsOfTheContextsCommute := by
  refine ⟨fun l v s t h => ?own, fun l m v c s t hml h => ?other, fun v w s => ?commute⟩
  case own =>
    obtain ⟨ht, hctx⟩ := exec_wrStep_next h
    exact ⟨hctx ▸ ht, fun u hu => by rw [wrStep_updates l v u, hu, hctx]⟩
  case other => exact contextsAreIndependent _ l m c s t rfl hml h
  case commute => exact (wrStep_updates .velocity v).comm (wrStep_updates .position w) (fun _ => rfl) s

end Sys2Proof.Machine

namespace Sys2Proof.Machine

/-! The two conditions: when each is raised, what is kept and what clears it (R170 to R174). -/

/-- Settles O52: with no operation waiting the block idles, and every event, decoded, illegal or held, has an answer. -/
theorem everyStepCompletes : Obligations.EveryStepCompletes := ⟨step_completes, exec_completes⟩

/-! AccOverflow (R171). -/

/-- A sum above the range leaves its value less 2^ACC_WIDTH in ACC. -/
theorem wrap_8_toInt_of_gt {n : Int} (hlo : 127 < n) (hhi : n ≤ 383) : (wrap 8 n).toInt = n - 256 := by
  have hmod := wrap_8_toInt_mod n
  have hrange := acc_toInt_bounds (wrap 8 n)
  omega

/-- A sum below the range leaves its value plus 2^ACC_WIDTH in ACC. -/
theorem wrap_8_toInt_of_lt {n : Int} (hhi : n < -128) (hlo : -384 ≤ n) : (wrap 8 n).toInt = n + 256 := by
  have hmod := wrap_8_toInt_mod n
  have hrange := acc_toInt_bounds (wrap 8 n)
  omega

/-- An EDGE moves ACC by at most 2, so its sum is at most 2 out of range. -/
theorem State.edgeSum_bounds (s : State) (new : Phase) : -130 ≤ s.edgeSum new ∧ s.edgeSum new ≤ 129 := by
  have hacc := acc_toInt_bounds s.acc
  have hdelta := delta_bounds s.phase new
  unfold State.edgeSum
  omega

/-- An EDGE whose sum leaves the range sets ACC_OVF, whatever it was. -/
theorem State.edge_accOvf_of_overflow {s : State} {a b : Bool}
    (h : s.edgeSum (phaseOf a b) < -128 ∨ 127 < s.edgeSum (phaseOf a b)) : (s.edge a b).accOvf = true := by
  rw [State.edge_accOvf, ← State.edgeSum, (accOverflows_iff _).mpr h, Bool.or_true]

/-- Settles O4: the sum lies in the range or at most 2 outside it, so ACC is off by 0 or by one 2^ACC_WIDTH; the write of
QD_STATUS and the release are read off their meanings. -/
theorem accOverflowSetsFlagAndWraps : Obligations.AccOverflowSetsFlagAndWraps := by
  refine ⟨fun a b s t h => ?edge, fun v s t h hbit => ?write, fun a b s t h => ?release⟩
  case edge =>
    obtain rfl : s.edge a b = t := by simpa [exec_edge] using h
    obtain ⟨hmin, hmax⟩ := s.edgeSum_bounds (phaseOf a b)
    refine ⟨fun ⟨hlo, hhi⟩ => ⟨?_, toInt_ofInt_8 hlo hhi⟩,
      fun habove => ⟨State.edge_accOvf_of_overflow (.inr habove), wrap_8_toInt_of_gt habove (hmax.trans (by decide))⟩,
      fun hbelow => ⟨State.edge_accOvf_of_overflow (.inl hbelow), wrap_8_toInt_of_lt hbelow (le_trans (by decide) hmin)⟩,
      rfl⟩
    rw [State.edge_accOvf, accOverflows_of_mem hlo hhi, Bool.or_false]
  case write =>
    rw [exec_wrQdStatus] at h
    cases h
    simp [hbit]
  case release =>
    cases h
    exact s.release_accOvf a b

/-! BusError (R172, R173). -/

/-- What an illegal transaction does, as one record: BUS_ERR is set, and a read returns 0. -/
theorem State.illegal_eq (s : State) (t : BusTxn) : s.illegal t =
    { s with busErr := true, rdata := if t.isWrite then s.rdata else some 0#32 } := by
  cases t <;> rfl

/-- Settles O45: what is listed is what the decode procedure rejects (O44), and a rejected transaction is handled as
illegal; the write of QD_STATUS and the release are read off their meanings. -/
theorem illegalTransactionOnlySetsBusErr : Obligations.IllegalTransactionOnlySetsBusErr := by
  refine ⟨fun t s hr hlisted => ?illegal, fun v s t h hbit => ?write, fun a b s t h => ?release⟩
  case illegal =>
    obtain ⟨r, hd⟩ := (illegalTransactionsAreThoseListed t).mpr hlisted
    rw [performOp_of_illegal hr hd, State.illegal_eq]
  case write =>
    rw [exec_wrQdStatus] at h
    cases h
    simp [hbit]
  case release =>
    cases h
    exact s.release_busErr a b

/-- No admitted operation sets BUS_ERR: the write of QD_STATUS can only clear it, and the others keep it. -/
theorem exec_busErr_of_busErr {i : Instr} {s t : State} (h : exec i s = .next t) (ht : t.busErr = true) :
    s.busErr = true := by
  rcases exec_next_cases h with ⟨a, b, _, rfl⟩ | ⟨_, rfl⟩ | ⟨v, _, rfl⟩ | ⟨v, a, _, _, rfl⟩ | ⟨l, c, _, rfl, _⟩
  case inr.inr.inl =>
    obtain ⟨hs, -⟩ : s.busErr = true ∧ v.getLsbD 3 = false := by simpa [afterW1C_eq] using ht
    exact hs
  case inr.inr.inr.inr => rwa [State.withCtx_busErr] at ht
  all_goals exact ht

/-- An operation of a context keeps the decoder's registers and both flags: it returns data or replaces the context. -/
theorem exec_of_loop_keeps_decoder {i : Instr} {l : Loop} {s t : State} (hl : i.loop? = some l)
    (h : exec i s = .next t) :
    t.phase = s.phase ∧ t.acc = s.acc ∧ t.accOvf = s.accOvf ∧ t.busErr = s.busErr := by
  rcases exec_of_loop hl with ⟨f, hf⟩ | ⟨f, hf⟩
  all_goals
    rw [hf] at h
    cases h
    simp

/-- EDGE and the operations of the decoder page keep both contexts: only an operation that names a context writes one. -/
theorem exec_of_no_loop_keeps_contexts {i : Instr} {s t : State} (hl : i.loop? = none) (h : exec i s = .next t) :
    t.vel = s.vel ∧ t.pos = s.pos := by
  rcases exec_next_cases h with ⟨a, b, _, rfl⟩ | ⟨_, rfl⟩ | ⟨v, _, rfl⟩ | ⟨v, a, _, _, rfl⟩ | ⟨l, c, hsome, _⟩
  case inr.inr.inr.inr => exact absurd hl (by simp [hsome])
  all_goals exact ⟨rfl, rfl⟩

theorem exec_rst {i : Instr} {s t : State} (h : exec i s = .next t) : t.rst = s.rst := by
  rcases exec_next_cases h with ⟨a, b, _, rfl⟩ | ⟨_, rfl⟩ | ⟨v, _, rfl⟩ | ⟨v, a, _, _, rfl⟩ | ⟨l, c, _, rfl, _⟩
  case inr.inr.inr.inr => exact s.withCtx_rst l c
  all_goals rfl

/-- Settles O37, clause by clause: each is a frame of the admitted operations. -/
theorem admittedOperationsKeepTheOtherUnit : Obligations.AdmittedOperationsKeepTheOtherUnit := by
  intro i s t h
  refine ⟨exec_busErr_of_busErr h, fun hl => ?_, fun hl => exec_of_no_loop_keeps_contexts hl h, exec_rst h,
    exec_sameInputs h⟩
  obtain ⟨l, hl⟩ := Option.ne_none_iff_exists'.mp hl
  exact exec_of_loop_keeps_decoder hl h

/-! Both conditions at once (R174). -/

@[simp] theorem State.edge_rst (s : State) (a b : Bool) : (s.edge a b).rst = s.rst := rfl

/-- Outside reset, an edge event is an EDGE of its two pin bits (R70, R92). -/
theorem performOp_edge {s : State} (hr : s.rst = false) (ab : BitVec 2) :
    performOp (.edge ab) s = .next (s.edge (ab.getLsbD 1) (ab.getLsbD 0)) :=
  (performOp_of_decode hr rfl).trans (exec_edge _ _ s)

/-- An EDGE and an illegal transaction write different registers. -/
theorem State.edge_illegal (s : State) (a b : Bool) (u : BusTxn) : (s.illegal u).edge a b = (s.edge a b).illegal u := by
  cases u <;> rfl

/-- Settles O57: the two commute, an illegal transaction sets BUS_ERR whatever comes before it, and it keeps the ACC_OVF
that the EDGE left. -/
theorem conditionsDoNotDependOnOrder : Obligations.ConditionsDoNotDependOnOrder := by
  intro ab u r s hr hd
  refine ⟨_, _, _, performOp_edge hr ab, performOp_of_illegal (by simpa using hr) hd, performOp_of_illegal hr hd, ?_,
    State.illegal_busErr _ u, State.illegal_accOvf _ u⟩
  rw [performOp_edge (by simpa using hr), State.edge_illegal]

end Sys2Proof.Machine

namespace Sys2Proof.Machine

/-! Reset and its release (R190 to R193). -/

/-- With `rst` asserted an operation is held, whether it would decode or not (R190). -/
theorem performOp_of_rst {s : State} (hr : s.rst = true) (op : Operation) :
    performOp op s = .next (s.heldInReset op) := by
  simp [performOp, hr]

/-- Settles O47: each operation is held, and what holding it leaves is read off for an EDGE, a read and a write. -/
theorem operationsAreHeldInReset : Obligations.OperationsAreHeldInReset :=
  ⟨fun ab _ hr => performOp_of_rst hr (.edge ab), fun a z _ hr => performOp_of_rst hr (.bus (.read a z)),
    fun a z v _ hr => performOp_of_rst hr (.bus (.write a z v)), fun _ => rfl⟩

/-- A release performs `State.release` (R191). -/
theorem perform_releaseRst (a b : Bool) (s : State) :
    perform (.reset (.releaseRst a b)) s = .next (s.release a b) := rfl

/-- Settles O48: the registers of `State.release`, with the zero context written out. -/
theorem releaseSetsEveryRegister : Obligations.ReleaseSetsEveryRegister :=
  fun a b s => perform_releaseRst a b s

/-- From an ACC of 0 an EDGE leaves its delta in ACC and keeps ACC_OVF, since every delta fits (R91, R92). -/
theorem State.edge_of_acc_zero {s : State} (hacc : s.acc = 0) (a b : Bool) :
    (s.edge a b).acc.toInt = delta s.phase (phaseOf a b) ∧ (s.edge a b).accOvf = s.accOvf := by
  obtain ⟨hlo, hhi⟩ := delta_bounds s.phase (phaseOf a b)
  have hfits : accOverflows (delta s.phase (phaseOf a b)) = false := accOverflows_of_mem (by omega) (by omega)
  rw [State.edge_acc, State.edge_accOvf, hacc, show (0 : Acc).toInt = 0 from rfl, zero_add, hfits, Bool.or_false]
  exact ⟨wrap_8_toInt_of_not_overflows hfits, rfl⟩

/-- An EDGE that samples the phase already held changes nothing: its delta is 0 (R91, R92). -/
theorem State.edge_of_same_phase {s : State} {a b : Bool} (h : phaseOf a b = s.phase) : s.edge a b = s := by
  obtain ⟨hlo, hhi⟩ := acc_toInt_bounds s.acc
  have hsum : s.edgeSum (phaseOf a b) = s.acc.toInt := by rw [State.edgeSum, h, delta_self, add_zero]
  rw [State.edge, hsum, State.noteOverflow, accOverflows_of_mem hlo hhi, Bool.or_false, wrap, BitVec.ofInt_toInt, h]

/-- Settles O50: the release leaves an ACC and an ACC_OVF of 0 and the phase of its pins, from which the EDGE counts. -/
theorem firstEdgeCountsFromTheReleasedPins : Obligations.FirstEdgeCountsFromTheReleasedPins := by
  intro a b c d s t h
  obtain rfl : s.release a b = t := by simpa [perform_releaseRst] using h
  obtain ⟨hacc, hovf⟩ := State.edge_of_acc_zero (s.release_acc a b) c d
  refine ⟨(s.release a b).edge c d, exec_edge c d _, hacc, hovf, ?same⟩
  case same =>
    rintro rfl rfl
    exact State.edge_of_same_phase (s.release_phase _ _).symm

/-- No gain is active and OUTPUT is 0 (R193). -/
abbrev Context.Inactive (c : Context) : Prop := c.kp = 0#32 ∧ c.ki = 0#32 ∧ c.kd = 0#32 ∧ c.output = 0#32

theorem Context.zero_inactive : Context.zero.Inactive := ⟨rfl, rfl, rfl, rfl⟩

/-- A STEP with gains of 0 keeps them and computes an OUTPUT of 0 (R144). -/
theorem Context.Inactive.step {c : Context} (h : c.Inactive) : c.step.Inactive := by
  obtain ⟨hp, hi, hd, -⟩ := h
  obtain ⟨-, -, -, houtput⟩ := Context.step_terms_of_zero_gains hp hi hd
  exact ⟨hp, hi, hd, houtput⟩

theorem Context.Inactive.of_same {c d : Context} (h : c.Inactive) (hgains : c.SameGains d) (hres : c.SameResults d) :
    d.Inactive := by
  obtain ⟨hp, hi, hd, ho⟩ := h
  obtain ⟨hkp, hki, hkd⟩ := hgains
  obtain ⟨-, -, -, -, -, houtput⟩ := hres
  exact ⟨hkp.trans hp, hki.trans hi, hkd.trans hd, houtput.trans ho⟩

/-- Settles O24: of the things a step does to a context, a release makes it zero, a STEP keeps it inactive, and only the
commit could make it active. -/
theorem outputStaysZeroUntilCommit : Obligations.OutputStaysZeroUntilCommit := by
  intro l s t h hcommit hinactive
  rcases step_ctx_cases l h with ⟨a, b, _, hc⟩ | ⟨v, _, hc⟩ | ⟨v, hi, _⟩ | ⟨hgains, hres⟩
  · exact hc ▸ Context.zero_inactive
  · exact hc ▸ Context.Inactive.step hinactive
  · exact absurd hi (hcommit v)
  · exact Context.Inactive.of_same hinactive hgains hres

end Sys2Proof.Machine
